-- ==== Sys2Proof/Word.lean ====
section
/-! DEFINITION. Word.lean: the machine's word types (00_scope.md R7, R8, R9; 30_encoding.md R70, R71). -/

namespace Sys2Proof

/-- A command word, or the data of one 32-bit access (R54, R70). -/
abbrev Word := BitVec 32

/-- An input byte (R9). -/
abbrev Byte := BitVec 8

/-- A 4-bit field of a command word: OP, VAR or WSEL (R71). -/
abbrev Nibble := BitVec 4

end Sys2Proof
end

