-- ==== Sys2Proof/Config.lean ====
section
/-! DEFINITION. Config.lean: what a build of FNVE fixes (00_scope.md R6): the parameters of a build and the
constant ROM they make, in which an absent entry is a width left out of `SUPPORTED_WSEL`; the digit case of the host's formatter; the fixed parameters.
`LIMB_BITS` is an argument of Machine/Limbs.lean, `BASE` a field of Machine/Platform.lean. The functions on these types
stand in Machine/Rom.lean. -/

namespace Sys2Proof

/-- The six accumulator widths (R5). -/
inductive Width where
  | w32 | w64 | w128 | w256 | w512 | w1024
deriving DecidableEq, Repr

/-- One ROM entry: "two fixed unsigned integers of exactly that width" (R100). -/
structure ConstPair (w : Nat) where
  prime : BitVec w
  basis : BitVec w
deriving DecidableEq, Repr

/-- `CONST_ROM`: the function from the six width codes to a pair (R6). -/
structure ConstTable where
  w32   : ConstPair 32
  w64   : ConstPair 64
  w128  : ConstPair 128
  w256  : ConstPair 256
  w512  : ConstPair 512
  w1024 : ConstPair 1024
deriving DecidableEq, Repr

/-- The configuration of one block: `SUPPORTED_WSEL`, as the widths its codes select, and `CONST_ROM` (R6), both "fixed when
the block is built" (R249). A machine takes it as an argument: `State.resetOf`, `coreOf`. -/
structure Build where
  supported : List Width
  constRom  : ConstTable
deriving DecidableEq, Repr

/-- The constant ROM of one build (R34, R100). `none` at a width: the build's `SUPPORTED_WSEL` leaves it out (R6). -/
structure Rom where
  w32   : Option (ConstPair 32)
  w64   : Option (ConstPair 64)
  w128  : Option (ConstPair 128)
  w256  : Option (ConstPair 256)
  w512  : Option (ConstPair 512)
  w1024 : Option (ConstPair 1024)
deriving DecidableEq, Repr

/-- What the lookup `CONST(ws)` gives for a supported code (R101), as the natural numbers the spec computes with (R8):
the width W in bits, the prime and the offset basis. -/
structure Consts where
  bits  : Nat
  prime : Nat
  basis : Nat
deriving DecidableEq, Repr

/-- `HEX_CASE`, OPEN (R6, R173, U1): an argument of the formatter. -/
inductive HexCase where
  | lower | upper
deriving DecidableEq, Repr

/-- `WMAX`, the widest accumulator in bits (R6). -/
def Config.wmax : Nat := 1024

/-- `DIGEST_WORD_BITS`, the width of one DIGEST word (R6). -/
def Config.digestWordBits : Nat := 32

end Sys2Proof
end

