-- ==== Sys2Proof/Machine/AsmSyntax.lean ====
section
/-! DEFINITION. Machine/AsmSyntax.lean: one line of the assembly language, as data (30_encoding.md R81, R82). Numbers
stand as the programmer wrote them; WellFormed.lean checks their ranges and Machine/Assembler.lean reads and assembles. -/

namespace Sys2Proof

/-- `<variant>`: a name, or `#n` for a raw VAR code (R81). -/
inductive VariantArg where
  | fnv0 | fnv1 | fnv1a
  | raw (n : Nat)
deriving DecidableEq, Repr

/-- `<width>`: a name `W32` to `W1024`, or `#n` for a raw WSEL code (R81). -/
inductive WidthArg where
  | named (w : Width)
  | raw (n : Nat)
deriving DecidableEq, Repr

/-- `<byte>`: a decimal or hexadecimal number, or a quoted character (R81). -/
inductive ByteArg where
  | number (n : Nat)
  | quoted (c : Char)
deriving DecidableEq, Repr

/-- One assembly line: the five commands and `.word` (R81), the three pseudo-instructions (R82), and a line with nothing
but space or a comment. -/
inductive AsmLine where
  | blank
  | nop
  | init (variant : VariantArg) (width : WidthArg)
  | fold (byte : ByteArg)
  | finish
  | clear
  | rawWord (n : Nat)
  | foldb (bytes : List ByteArg)
  | folds (text : List Char)
  | hash (variant : VariantArg) (width : WidthArg) (text : List Char)
deriving DecidableEq, Repr

end Sys2Proof
end

