-- ==== Sys2Proof/Syntax.lean ====
section
/-! DEFINITION. Syntax.lean: the commands of FNVE-CMD version 1, one constructor per row of the opcode table
(30_encoding.md R73). -/

namespace Sys2Proof

/-- A legal command. INIT's fields are raw codes: support is checked when INIT executes, not at decode (R80). -/
inductive Instr where
  /-- NOP (R142). -/
  | nop
  /-- INIT: the VAR code and the WSEL code (R143). -/
  | init (var wsel : Nibble)
  /-- FOLD: the input byte (R145). -/
  | fold (byte : Byte)
  /-- FINISH (R148). -/
  | finish
  /-- CLEAR (R149). -/
  | clear
deriving DecidableEq, Repr

end Sys2Proof
end

