-- ==== Sys2Proof/WellFormed.lean ====
section
/-! DEFINITION. WellFormed.lean: which terms are well formed. A command's operands have the field widths of
30_encoding.md R71 by their types, so every `Instr` passes; an assembly line's numbers are free and R81 bounds them.
(Whether a host access is inside the interface, R54, is `Access.inInterface` in Machine/Ops.lean.) -/

namespace Sys2Proof

/-- The bounds R80 puts on `enc`: "v, ws < 16", "b < 256". The operand types hold them. -/
def Instr.wellFormed : Instr → Bool
  | .nop => true
  | .init v ws => decide (v.toNat < 16) && decide (ws.toNat < 16)
  | .fold b => decide (b.toNat < 256)
  | .finish => true
  | .clear => true

/-- `#n` has n in 0..15 (R81). -/
def VariantArg.wellFormed : VariantArg → Bool
  | .fnv0 => true
  | .fnv1 => true
  | .fnv1a => true
  | .raw n => decide (n ≤ 15)

/-- `#n` has n in 0..15 (R81). -/
def WidthArg.wellFormed : WidthArg → Bool
  | .named _ => true
  | .raw n => decide (n ≤ 15)

/-- A number is 0 to 255; a quoted character is in the range 0x20 to 0x7E (R81). -/
def ByteArg.wellFormed : ByteArg → Bool
  | .number n => decide (n ≤ 255)
  | .quoted c => decide (0x20 ≤ c.toNat) && decide (c.toNat ≤ 0x7E)

/-- Every operand of the line is one R81 allows; FOLDB has at least one byte (R82). -/
def AsmLine.wellFormed : AsmLine → Bool
  | .blank => true
  | .nop => true
  | .init v w => v.wellFormed && w.wellFormed
  | .fold b => b.wellFormed
  | .finish => true
  | .clear => true
  | .rawWord n => decide (n < 2 ^ 32)
  | .foldb bs => !bs.isEmpty && bs.all ByteArg.wellFormed
  | .folds _ => true
  | .hash v w _ => v.wellFormed && w.wellFormed

end Sys2Proof
end

