-- ==== Sys2Proof/Decode.lean ====
section
/-! DEFINITION. Decode.lean: the command word's fields (30_encoding.md R71, R72), decoding (R80), the opcode table's rows
(R73) and the encoder (R80). -/

namespace Sys2Proof

/-- `OP = w[31:28]` (R72). -/
def opField (w : Word) : Nibble := w.extractLsb' 28 4

/-- `VAR = w[27:24]` (R72). -/
def varField (w : Word) : Nibble := w.extractLsb' 24 4

/-- `WSEL = w[23:20]` (R72). -/
def wselField (w : Word) : Nibble := w.extractLsb' 20 4

/-- `RSV = w[19:8]` (R71). -/
def rsvField (w : Word) : BitVec 12 := w.extractLsb' 8 12

/-- `BYTE = w[7:0]` (R72). -/
def byteField (w : Word) : Byte := w.extractLsb' 0 8

/-- Why a word is illegal (R77): OP ≥ 5, or a must-be-zero bit that is set. -/
inductive Illegal where
  | unassignedOpcode
  | mustBeZeroBitSet
deriving DecidableEq, Repr

/-- The decode function of R80, case by case: total, with no state and no mode (R79). -/
def decode (w : Word) : Except Illegal Instr :=
  if opField w = 0x0 then
    if w.extractLsb' 0 28 = 0 then .ok .nop else .error .mustBeZeroBitSet
  else if opField w = 0x1 then
    if w.extractLsb' 0 20 = 0 then .ok (.init (varField w) (wselField w)) else .error .mustBeZeroBitSet
  else if opField w = 0x2 then
    if w.extractLsb' 8 20 = 0 then .ok (.fold (byteField w)) else .error .mustBeZeroBitSet
  else if opField w = 0x3 then
    if w.extractLsb' 0 28 = 0 then .ok .finish else .error .mustBeZeroBitSet
  else if opField w = 0x4 then
    if w.extractLsb' 0 28 = 0 then .ok .clear else .error .mustBeZeroBitSet
  else .error .unassignedOpcode

/-- The encoder of R80: `enc`. -/
def encode : Instr → Word
  | .nop => 0x00000000
  | .init v ws => 0x10000000 ||| (v.setWidth 32 <<< 24) ||| (ws.setWidth 32 <<< 20)
  | .fold b => 0x20000000 ||| b.setWidth 32
  | .finish => 0x30000000
  | .clear => 0x40000000

/-- One row of the opcode table: a word selects it when `(w & mask) = pattern` (R73). -/
structure OpcodeRow where
  mnemonic : String
  pattern  : Word
  mask     : Word
deriving DecidableEq, Repr

/-- Whether a word selects a row (R73). -/
def OpcodeRow.selects (r : OpcodeRow) (w : Word) : Bool := w &&& r.mask == r.pattern

/-- The row of an instruction, with the match and mask columns of R73's table. -/
def Instr.row : Instr → OpcodeRow
  | .nop => ⟨"NOP", 0x00000000, 0xFFFFFFFF⟩
  | .init _ _ => ⟨"INIT", 0x10000000, 0xF00FFFFF⟩
  | .fold _ => ⟨"FOLD", 0x20000000, 0xFFFFFF00⟩
  | .finish => ⟨"FINISH", 0x30000000, 0xFFFFFFFF⟩
  | .clear => ⟨"CLEAR", 0x40000000, 0xFFFFFFFF⟩

/-- The opcode table (R73), in its order. -/
def opcodeTable : List OpcodeRow :=
  [Instr.nop.row, (Instr.init 0 0).row, (Instr.fold 0).row, Instr.finish.row, Instr.clear.row]

/-- The instruction the decoder reads from a table row's word. A command is exactly one 32-bit word (R70), so a longer
word is no command. -/
def decodeTableWord (nbits w : Nat) : Option Instr :=
  if nbits ≤ 32 then
    match decode (BitVec.ofNat 32 (w % 2 ^ nbits)) with
    | .ok i => some i
    | .error _ => none
  else none

end Sys2Proof
end

