-- ==== Sys2Proof/Machine/Rom.lean ====
section
/-! DEFINITION. Machine/Rom.lean: the width codes (10_state.md R25, 30_encoding.md R75), the constant lookup
(40_constants_rom.md R101), the ROM of a build (R6, R249) and its default contents (R102 to R107). -/

namespace Sys2Proof

/-- W in bits (R5). -/
def Width.bits : Width → Nat
  | .w32 => 32
  | .w64 => 64
  | .w128 => 128
  | .w256 => 256
  | .w512 => 512
  | .w1024 => 1024

/-- The WSEL code of a width (R75). -/
def Width.code : Width → Nibble
  | .w32 => 0
  | .w64 => 1
  | .w128 => 2
  | .w256 => 3
  | .w512 => 4
  | .w1024 => 5

/-- The width a WSEL code selects; `none` for 6 to 15, where width() is undefined (R25, R75). -/
def Width.ofCode (ws : Nibble) : Option Width :=
  if ws = 0 then some .w32
  else if ws = 1 then some .w64
  else if ws = 2 then some .w128
  else if ws = 3 then some .w256
  else if ws = 4 then some .w512
  else if ws = 5 then some .w1024
  else none

/-- A constant pair as natural numbers, with its width (R8). -/
def ConstPair.consts {w : Nat} (c : ConstPair w) : Consts := ⟨w, c.prime.toNat, c.basis.toNat⟩

/-- The ROM's entry at a width, where the build has one (R100). -/
def Rom.entry (r : Rom) : Width → Option Consts
  | .w32 => r.w32.map ConstPair.consts
  | .w64 => r.w64.map ConstPair.consts
  | .w128 => r.w128.map ConstPair.consts
  | .w256 => r.w256.map ConstPair.consts
  | .w512 => r.w512.map ConstPair.consts
  | .w1024 => r.w1024.map ConstPair.consts

/-- `CONST(ws)` (R101): `none` is UNSUPPORTED_WIDTH, for a code of 6 or more and for a code the build leaves out. -/
def Rom.const (r : Rom) (ws : Nibble) : Option Consts :=
  match Width.ofCode ws with
  | none => none
  | some w => r.entry w

/-- The constant ROM of a build: the entries of `CONST_ROM` at the codes of `SUPPORTED_WSEL` (R6: "A build may drop
entries"). -/
def Build.rom (b : Build) : Rom where
  w32 := if b.supported.contains .w32 then some b.constRom.w32 else none
  w64 := if b.supported.contains .w64 then some b.constRom.w64 else none
  w128 := if b.supported.contains .w128 then some b.constRom.w128 else none
  w256 := if b.supported.contains .w256 then some b.constRom.w256 else none
  w512 := if b.supported.contains .w512 then some b.constRom.w512 else none
  w1024 := if b.supported.contains .w1024 then some b.constRom.w1024 else none

/-- R102. -/
def rom32 : ConstPair 32 where
  prime := 0x01000193
  basis := 0x811C9DC5

/-- R103. -/
def rom64 : ConstPair 64 where
  prime := 0x00000100000001B3
  basis := 0xCBF29CE484222325

/-- R104. -/
def rom128 : ConstPair 128 where
  prime := 0x0000000001000000000000000000013B
  basis := 0x6C62272E07BB014262B821756295C58D

/-- R105: the prime's two lines and the basis's two lines. -/
def rom256 : ConstPair 256 where
  prime := 0x0000000000000000000001000000000000000000000000000000000000000163
  basis := 0xDD268DBCAAC550362D98C384C4E576CCC8B1536847B6BBB31023B4C8CAEE0535

/-- R106, each number in its four lines of 128 bits, most significant first. -/
def rom512 : ConstPair 512 where
  prime :=
    0x00000000000000000000000000000000#128
      ++ 0x00000000010000000000000000000000#128
      ++ 0x00000000000000000000000000000000#128
      ++ 0x00000000000000000000000000000157#128
  basis :=
    0xB86DB0B1171F4416DCA1E50F309990AC#128
      ++ 0xAC87D059C90000000000000000000D21#128
      ++ 0xE948F68A34C192F62EA79BC942DBE7CE#128
      ++ 0x182036415F56E34BAC982AAC4AFE9FD9#128

/-- R107, each number in its eight lines of 128 bits, most significant first. -/
def rom1024 : ConstPair 1024 where
  prime :=
    0x00000000000000000000000000000000#128
      ++ 0x00000000000000000000000000000000#128
      ++ 0x00000000000000000000010000000000#128
      ++ 0x00000000000000000000000000000000#128
      ++ 0x00000000000000000000000000000000#128
      ++ 0x00000000000000000000000000000000#128
      ++ 0x00000000000000000000000000000000#128
      ++ 0x0000000000000000000000000000018D#128
  basis :=
    0x0000000000000000005F7A76758ECC4D#128
      ++ 0x32E56D5A591028B74B29FC4223FDADA1#128
      ++ 0x6C3BF34EDA3674DA9A21D90000000000#128
      ++ 0x00000000000000000000000000000000#128
      ++ 0x00000000000000000000000000000000#128
      ++ 0x0000000000000000000000000004C6D7#128
      ++ 0xEB6E73802734510A555F256CC005AE55#128
      ++ 0x6BDE8CC9C6A93B21AFF4B16C71EE90B3#128

/-- The default `CONST_ROM` (R6, R102 to R107).
PRESUMED (log entry 9): the spec itself takes every constant but two bases from general knowledge. -/
def defaultTable : ConstTable := ⟨rom32, rom64, rom128, rom256, rom512, rom1024⟩

/-- The default build: the default table and all six widths (R6). -/
def Build.default : Build := ⟨[.w32, .w64, .w128, .w256, .w512, .w1024], defaultTable⟩

/-- The constant ROM of the default build. -/
def defaultRom : Rom := Build.default.rom

end Sys2Proof
end

