-- ==== Sys2Proof/Machine/State.lean ====
section
/-! DEFINITION. Machine/State.lean: the state of one FNVE instance (10_state.md R20), the host's accesses to its register
block (20_memory.md R53, R54), the reasons a step can stop, and the state after reset (R35). -/

namespace Sys2Proof.Machine

/-- STATE (R21). Codes 5 to 7 are never held, so the type leaves them out (S5). -/
inductive SeqState where
  /-- No computation set up: after reset or CLEAR. -/
  | idle
  /-- ACC holds the seed. -/
  | seeded
  /-- One or more bytes folded. -/
  | folding
  /-- The input ended and ACC holds the digest. -/
  | done
  /-- An error was signalled; ERR holds its code. -/
  | error
deriving DecidableEq, Repr

/-- ERR (R22, R200). Codes 5 to 7 are never held, so the type leaves them out (S5). -/
inductive ErrCode where
  | none
  /-- Raised by INIT (R201). -/
  | unsupportedWidth
  /-- Raised by INIT (R202). -/
  | unsupportedVariant
  /-- Raised by FOLD and FINISH outside SEEDED and FOLDING (R204). -/
  | sequence
  /-- Raised by every illegal word (R205). -/
  | illegalCommand
deriving DecidableEq, Repr

/-- The size of a host access: 32 bits, or one of the sizes outside the interface (R54). -/
inductive AccessSize where
  | narrower | word | wider
deriving DecidableEq, Repr

/-- A read, or a write with its data. The data of a write that is not 32 bits wide is never looked at (R54). -/
inductive AccessOp where
  | read
  | write (data : Word)
deriving DecidableEq, Repr

/-- One host access to the register block, by its byte offset from `BASE` in the block's 256 bytes (R53). -/
structure Access where
  offset : BitVec 8
  size   : AccessSize
  op     : AccessOp
deriving DecidableEq, Repr

/-- The state of one instance. The first five fields are the registers of R20, the sixth its constant ROM (R34). -/
structure State where
  /-- STATE (R21). -/
  state    : SeqState
  /-- ERR (R22). -/
  err      : ErrCode
  /-- VAR, 4 bits (R23). -/
  var      : Nibble
  /-- WSEL, 4 bits (R24). -/
  wsel     : Nibble
  /-- ACC: a W-bit value, or no value ⊥ (R26). -/
  acc      : Option Nat
  /-- The constant ROM: constant state (R20, R34), made once from the configuration `Build` and never written (R249; log
  entry 8). -/
  rom      : Rom
  /-- The platform's reset is asserted and not yet taken (R240; log entry 6). -/
  resetReq : Bool
  /-- The host accesses put to the port and not yet completed, oldest first (R58, R244; log entry 1). -/
  offered  : List Access
  /-- The model's own field: the words the read ports returned to the host, oldest first; `none` is a read that returns no
  value (R172; log entries 3 and 4). -/
  replies  : List (Option Word)
deriving DecidableEq, Repr

/-- Why the machine stops. Both are raised by FOLD alone, in states outside the register invariant R30, where the spec
gives the computation no operand; no step from a state of R30 reaches them. Safe: the model stops (log entry 11). -/
inductive Fault where
  /-- FOLD in SEEDED or FOLDING with ACC = ⊥, which R145 excludes: "a is a value, never ⊥, here". Safe. -/
  | foldWithoutAccumulator
  /-- FOLD in SEEDED or FOLDING with a WSEL whose prime is not defined (R101). Safe. -/
  | foldWithoutPrime
deriving DecidableEq, Repr

/-- Why the model gives a step no meaning. -/
inductive Refusal where
  /-- An instruction with no meaning yet; raised by exec's refused arms only, and none is left. Safe. -/
  | notModelled (mnemonic : String)
  /-- The host's access is not an aligned 32-bit access (R54, S4); raised by the port. Safe. -/
  | accessOutsideInterface
deriving DecidableEq, Repr

/-- The block of a build right after reset (R35), its ROM at the build's contents (R249): nothing is offered, nothing was
returned. The three interface fields are a DESIGN CHOICE (log entries 1, 3, 6). -/
def State.resetOf (b : Build) : State where
  state := .idle
  err := .none
  var := 0
  wsel := 0
  acc := none
  rom := b.rom
  resetReq := false
  offered := []
  replies := []

/-- The machine right after reset, of the default build (R6; log entry 8). -/
def State.reset : State := State.resetOf Build.default

end Sys2Proof.Machine
end

