-- ==== Sys2Proof/Machine/Ops.lean ====
section
/-! DEFINITION. Machine/Ops.lean: the named operations the commands share. The register writes of each command
(42_commands.md), the error primitive `signal` (60_exceptions.md R203), the platform's reset (70_reset_and_hazards.md
R240), and the datapath primitives (41_wide_arith.md). FNVE has no trap and no return from one (R208): `signal` is all
that taking an error does. -/

namespace Sys2Proof.Machine

/-- `signal(e)` (R203): the first error is sticky, and VAR and WSEL are never written. -/
def signal (e : ErrCode) (s : State) : State :=
  if s.state = .error then s else { s with state := .error, err := e, acc := none }

/-- A failed INIT (R143): it records the requested codes and writes STATE, ERR and ACC whatever they held. -/
def failInit (e : ErrCode) (v ws : Nibble) (s : State) : State :=
  { s with state := .error, err := e, var := v, wsel := ws, acc := none }

/-- A successful INIT (R143): a fresh computation with ACC at the seed. -/
def startComputation (v ws : Nibble) (seed : Nat) (s : State) : State :=
  { s with state := .seeded, err := .none, var := v, wsel := ws, acc := some seed }

/-- A fold's result (R145). -/
def storeFold (a : Nat) (s : State) : State := { s with state := .folding, acc := some a }

/-- The end of the input (R148): ACC is unchanged and is now the digest. -/
def markDone (s : State) : State := { s with state := .done }

/-- Every register to its reset value (R35), as CLEAR (R149) and reset (R240) both do. -/
def clearRegisters (s : State) : State :=
  { s with state := .idle, err := .none, var := 0, wsel := 0, acc := none }

/-- A read port's answer, returned to the host. -/
def addReply (r : Option Word) (s : State) : State := { s with replies := s.replies ++ [r] }

/-- FOLD and FINISH run in SEEDED and FOLDING (R145, R148). -/
def SeqState.acceptsInput : SeqState → Bool
  | .idle => false
  | .seeded => true
  | .folding => true
  | .done => false
  | .error => false

/-- `MulW(a, p, W) = (a · p) mod 2^W` (R120). -/
def mulW (W a p : Nat) : Nat := a * p % 2 ^ W

/-- `XorByte(a, b, W) = a xor zext_W(b)` (R123). -/
def xorByte (W a : Nat) (b : Byte) : Nat := a ^^^ (b.setWidth W).toNat

/-- "Every host access to the register block is a single 32-bit access at an offset that is a multiple of 4" (R54). -/
def Access.inInterface (a : Access) : Bool := a.size == .word && a.offset.toNat % 4 == 0

/-- The access is a command: an aligned 32-bit write to CMD (R55, R57). -/
def Access.isCommand (a : Access) : Bool :=
  a.inInterface && a.offset == 0 && match a.op with
    | .read => false
    | .write _ => true

/-- The access that offers one command word (R53, R70). -/
def Access.command (w : Word) : Access := ⟨0x00, .word, .write w⟩

/-- The read of STATUS (R53). -/
def Access.readStatus : Access := ⟨0x04, .word, .read⟩

/-- The read of DIGEST[k] (R53). -/
def Access.readDigest (k : Nat) : Access := ⟨BitVec.ofNat 8 (0x40 + 4 * k), .word, .read⟩

/-- Taking the platform's reset (R240): the registers take their reset values, the ROM stays, and "a command offered but
not yet accepted is not accepted". The other held accesses stay (log entry 7). -/
def takeReset (s : State) : State :=
  { clearRegisters s with resetReq := false, offered := s.offered.filter fun a => !a.isCommand }

end Sys2Proof.Machine
end

