-- ==== Sys2Proof/Machine/Operands.lean ====
section
/-! DEFINITION. Machine/Operands.lean: what the commands compute from their operands: INIT's seed (42_commands.md R144)
and FOLD's step (R145 to R147). The constants come from `CONST` (40_constants_rom.md R101, Machine/Rom.lean). -/

namespace Sys2Proof.Machine

/-- `seed(v, ws)` (R144): 0 for FNV-0, the offset basis for FNV-1 and FNV-1a. -/
def seed (c : Consts) (v : Nibble) : Nat := if v = 0 then 0 else c.basis

/-- `step1` of FNV-0 and FNV-1: multiply, then XOR (R146). -/
def step1 (c : Consts) (a : Nat) (b : Byte) : Nat := xorByte c.bits (mulW c.bits a c.prime) b

/-- `step1a` of FNV-1a: XOR, then multiply (R147). -/
def step1a (c : Consts) (a : Nat) (b : Byte) : Nat := mulW c.bits (xorByte c.bits a b) c.prime

/-- The step FOLD takes for a VAR code, with R145's two branches: "if VAR ∈ {0, 1}" and "else" (log entry 12). -/
def foldStep (c : Consts) (v : Nibble) (a : Nat) (b : Byte) : Nat :=
  if v = 0 ∨ v = 1 then step1 c a b else step1a c a b

end Sys2Proof.Machine
end

