-- ==== Sys2Proof/Machine/Flags.lean ====
section
/-! DEFINITION. Machine/Flags.lean: the STATUS word, which is all the flags FNVE has (10_state.md R28, R32), and the codes
of its fields (R21, R22). -/

namespace Sys2Proof.Machine

/-- The code of a STATE (R21). -/
def SeqState.code : SeqState → BitVec 3
  | .idle => 0
  | .seeded => 1
  | .folding => 2
  | .done => 3
  | .error => 4

/-- The code of an ERR (R22). -/
def ErrCode.code : ErrCode → BitVec 3
  | .none => 0
  | .unsupportedWidth => 1
  | .unsupportedVariant => 2
  | .sequence => 3
  | .illegalCommand => 4

/-- `STATUS = STATE | (ERR << 4) | (VAR << 8) | (WSEL << 12)` (R28). -/
def status (s : State) : Word :=
  s.state.code.setWidth 32 ||| (s.err.code.setWidth 32 <<< 4) ||| (s.var.setWidth 32 <<< 8)
    ||| (s.wsel.setWidth 32 <<< 12)

end Sys2Proof.Machine
end

