-- ==== Sys2Proof/Machine/Control.lean ====
section
/-! DEFINITION. Machine/Control.lean: NOP, CLEAR and the illegal word (42_commands.md R142, R149, R150). -/

namespace Sys2Proof.Machine

/-- NOP (R142): no register is written, in any STATE. -/
def execNop (s : State) : Host.Outcome State Fault Refusal := .next s

/-- CLEAR (R149): back to the reset registers, in any STATE. -/
def execClear (s : State) : Host.Outcome State Fault Refusal := .next (clearRegisters s)

/-- An illegal word (R150): `signal(ILLEGAL_COMMAND)`; no field of it is used. -/
def execIllegal (s : State) : Host.Outcome State Fault Refusal := .next (signal .illegalCommand s)

end Sys2Proof.Machine
end

