-- ==== Sys2Proof/Machine/Sequencer.lean ====
section
/-! DEFINITION. Machine/Sequencer.lean: INIT, FOLD and FINISH (42_commands.md R143, R145, R148). -/

namespace Sys2Proof.Machine

/-- INIT v, ws (R143): the width is checked before the variant (60_exceptions.md R206). -/
def execInit (v ws : Nibble) (s : State) : Host.Outcome State Fault Refusal :=
  match s.rom.const ws with
  | none => .next (failInit .unsupportedWidth v ws s)
  | some c =>
    if 3 ≤ v.toNat then .next (failInit .unsupportedVariant v ws s)
    else .next (startComputation v ws (seed c v) s)

/-- FOLD b (R145): one fold step in SEEDED and FOLDING, SEQUENCE elsewhere. The two faults stand for states outside R30
(log entry 11). -/
def execFold (b : Byte) (s : State) : Host.Outcome State Fault Refusal :=
  if s.state.acceptsInput then
    match s.rom.const s.wsel, s.acc with
    | some c, some a => .next (storeFold (foldStep c s.var a b) s)
    | some _, none => .fault .foldWithoutAccumulator
    | none, _ => .fault .foldWithoutPrime
  else .next (signal .sequence s)

/-- FINISH (R148): the end of the input in SEEDED and FOLDING, SEQUENCE elsewhere. -/
def execFinish (s : State) : Host.Outcome State Fault Refusal :=
  if s.state.acceptsInput then .next (markDone s) else .next (signal .sequence s)

end Sys2Proof.Machine
end

