-- ==== Sys2Proof/Machine/Dispatch.lean ====
section
/-! DEFINITION. Machine/Dispatch.lean: one arm per command (42_commands.md R140: `exec`). -/

namespace Sys2Proof.Machine

def exec (i : Instr) (s : State) : Host.Outcome State Fault Refusal :=
  match i with
  | .nop => Sys2Proof.Machine.execNop s
  | .init v ws => Sys2Proof.Machine.execInit v ws s
  | .fold b => Sys2Proof.Machine.execFold b s
  | .finish => Sys2Proof.Machine.execFinish s
  | .clear => Sys2Proof.Machine.execClear s

end Sys2Proof.Machine
end

