-- ==== Sys2Proof/Machine/Port.lean ====
section
/-! DEFINITION. Machine/Port.lean: the register block (20_memory.md R53 to R58): the command port, the STATUS port
(10_state.md R28) and the DIGEST ports (43_digest_readout.md R171, R172). -/

namespace Sys2Proof.Machine

/-- What stands at an offset of the block (R53). -/
inductive Port where
  | cmd
  | status
  | digest (k : Nat)
  | reserved
deriving DecidableEq, Repr

/-- The register map of R53, for an offset that is a multiple of 4. -/
def portOf (offset : BitVec 8) : Port :=
  if offset.toNat = 0x00 then .cmd
  else if offset.toNat = 0x04 then .status
  else if 0x40 ≤ offset.toNat ∧ offset.toNat < 0xC0 then .digest ((offset.toNat - 0x40) / 4)
  else .reserved

/-- `DIGEST[k]` (R171): bits [32k+31:32k] of ACC, when STATE = DONE and k < W/32. In every other case the read returns no
value (R172: "A model gives such a read no value (⊥)"; log entry 4). -/
def digestWord (s : State) (k : Nat) : Option Word :=
  match s.state, s.rom.const s.wsel, s.acc with
  | .done, some c, some a =>
    if k < c.bits / Config.digestWordBits then some (BitVec.ofNat 32 (a >>> (Config.digestWordBits * k))) else none
  | _, _, _ => none

/-- What a 32-bit read of a port returns (R55). -/
def readPort (s : State) : Port → Option Word
  | .cmd => some 0
  | .status => some (status s)
  | .digest k => digestWord s k
  | .reserved => some 0

/-- One accepted command word (R140): `step(S, w) = exec(S, decode(w))`, with R150 for an illegal word. -/
def acceptCommand (w : Word) (s : State) : Host.Outcome State Fault Refusal :=
  match decode w with
  | .ok i => exec i s
  | .error _ => execIllegal s

/-- One host access (R54, R55): refused outside the interface, a command at CMD, no effect at any other written offset, a
reply for a read. -/
def accept (a : Access) (s : State) : Host.Outcome State Fault Refusal :=
  if a.inInterface then
    match a.op, portOf a.offset with
    | .write w, .cmd => acceptCommand w s
    | .write _, .status => .next s
    | .write _, .digest _ => .next s
    | .write _, .reserved => .next s
    | .read, p => .next (addReply (readPort s p) s)
  else .refused .accessOutsideInterface

end Sys2Proof.Machine
end

