-- ==== Sys2Proof/Machine/Step.lean ====
section
/-! DEFINITION. Machine/Step.lean: one step of an instance. A pending reset is taken first (70_reset_and_hazards.md R240);
otherwise the oldest held access is taken, whole (20_memory.md R57, R58); with nothing offered the engine holds its
registers (60_exceptions.md R216). FNVE fetches nothing (R61): the command comes from the host (log entry 1). -/

namespace Sys2Proof.Machine

/-- One step. -/
def step (s : State) : Host.Outcome State Fault Refusal :=
  if s.resetReq then .next (takeReset s)
  else
    match s.offered with
    | [] => .next s
    | a :: rest => accept a { s with offered := rest }

/-- `s` with the host's write of that word to CMD as its oldest held access, and no reset pending, so that the next step
takes it (log entry 1). -/
def State.withFetchWord (s : State) (nbits w : Nat) : State :=
  { s with resetReq := false, offered := Access.command (BitVec.ofNat 32 (w % 2 ^ nbits)) :: s.offered }

end Sys2Proof.Machine
end

