-- ==== Sys2Proof/Machine/Assembler.lean ====
section
/-! DEFINITION. Machine/Assembler.lean: the assembler of 30_encoding.md R81 and R82, from text to command words. It runs on
the host. Lexical points the spec leaves open are log entry 16. -/

namespace Sys2Proof

/-- The VAR code of `<variant>`; `none` is an assembly error (R81). -/
def VariantArg.code : VariantArg → Option Nibble
  | .fnv0 => some 0
  | .fnv1 => some 1
  | .fnv1a => some 2
  | .raw n => if n ≤ 15 then some (BitVec.ofNat 4 n) else none

/-- The WSEL code of `<width>`; `none` is an assembly error (R81). -/
def WidthArg.code : WidthArg → Option Nibble
  | .named w => some w.code
  | .raw n => if n ≤ 15 then some (BitVec.ofNat 4 n) else none

/-- The value of `<byte>`; a quoted character stands for its ASCII code (R81). -/
def ByteArg.value : ByteArg → Option Byte
  | .number n => if n ≤ 255 then some (BitVec.ofNat 8 n) else none
  | .quoted c => if 0x20 ≤ c.toNat ∧ c.toNat ≤ 0x7E then some (BitVec.ofNat 8 c.toNat) else none

/-- The values of a list of bytes, when all are allowed. -/
def byteValues : List ByteArg → Option (List Byte)
  | [] => some []
  | b :: bs => do
    let x ← b.value
    let xs ← byteValues bs
    pure (x :: xs)

/-- The UTF-8 bytes of one character (R82; beyond ASCII PRESUMED, log entry 17). -/
def utf8Char (c : Char) : List Byte :=
  let n := c.toNat
  if n < 0x80 then [BitVec.ofNat 8 n]
  else if n < 0x800 then [BitVec.ofNat 8 (0xC0 + n / 64), BitVec.ofNat 8 (0x80 + n % 64)]
  else if n < 0x10000 then
    [BitVec.ofNat 8 (0xE0 + n / 4096), BitVec.ofNat 8 (0x80 + n / 64 % 64), BitVec.ofNat 8 (0x80 + n % 64)]
  else
    [BitVec.ofNat 8 (0xF0 + n / 262144), BitVec.ofNat 8 (0x80 + n / 4096 % 64), BitVec.ofNat 8 (0x80 + n / 64 % 64),
      BitVec.ofNat 8 (0x80 + n % 64)]

/-- The UTF-8 bytes of a text, in order (R82). -/
def utf8 : List Char → List Byte
  | [] => []
  | c :: cs => utf8Char c ++ utf8 cs

/-- `FOLD b` for each byte, in order (R82). -/
def foldInstrs (bs : List Byte) : List Instr := bs.map .fold

/-- The words one line writes to CMD, pseudo-instructions expanded (R81, R82); `none` is an assembly error. -/
def AsmLine.words : AsmLine → Option (List Word)
  | .blank => some []
  | .nop => some [encode .nop]
  | .init v w => do
    let vc ← v.code
    let wc ← w.code
    pure [encode (.init vc wc)]
  | .fold b => do
    let x ← b.value
    pure [encode (.fold x)]
  | .finish => some [encode .finish]
  | .clear => some [encode .clear]
  | .rawWord n => if n < 2 ^ 32 then some [BitVec.ofNat 32 n] else none
  | .foldb [] => none
  | .foldb (b :: bs) => (byteValues (b :: bs)).map fun xs => (foldInstrs xs).map encode
  | .folds t => some ((foldInstrs (utf8 t)).map encode)
  | .hash v w t => do
    let vc ← v.code
    let wc ← w.code
    pure ((Instr.init vc wc :: foldInstrs (utf8 t) ++ [Instr.finish]).map encode)

/-- The words of a program's lines in order; one assembly error and nothing is written (R81). -/
def assembleLines : List AsmLine → Option (List Word)
  | [] => some []
  | l :: ls => do
    let ws ← l.words
    let rest ← assembleLines ls
    pure (ws ++ rest)

/-- What the lexer makes of a line: words (letters in upper case), commas, quoted characters, quoted texts. -/
inductive AsmToken where
  | word (cs : List Char)
  | comma
  | quoted (c : Char)
  | text (cs : List Char)
deriving DecidableEq, Repr

/-- Where the lexer stands: outside quotes with the word read so far (in reverse), or inside quotes. -/
inductive LexMode where
  | plain (rev : List Char)
  | text (rev : List Char)
  | quoteOpen
  | quoteClose (c : Char)
deriving DecidableEq, Repr

/-- The pending word, ended. -/
def flushWord (rev : List Char) (rest : List AsmToken) : List AsmToken :=
  if rev.isEmpty then rest else .word rev.reverse :: rest

/-- The tokens of one line. A `;` outside quotes starts a comment to the end of the line; letters outside quotes are
case-insensitive (R81). `none`: a quote is left open or holds no single character. An opening quote ends the word before
it, so no blank need stand between a mnemonic and a quoted operand: DESIGN CHOICE (log entry 16). -/
def lexLine : LexMode → List Char → Option (List AsmToken)
  | .plain rev, [] => some (flushWord rev [])
  | .plain rev, c :: cs =>
    if c = ';' then some (flushWord rev [])
    else if c = ' ' ∨ c = '\t' ∨ c = '\r' then (lexLine (.plain []) cs).map (flushWord rev)
    else if c = ',' then (lexLine (.plain []) cs).map fun ts => flushWord rev (.comma :: ts)
    else if c = '"' then (lexLine (.text []) cs).map (flushWord rev)
    else if c = '\'' then (lexLine .quoteOpen cs).map (flushWord rev)
    else lexLine (.plain (c.toUpper :: rev)) cs
  | .text _, [] => none
  | .text rev, c :: cs =>
    if c = '"' then (lexLine (.plain []) cs).map (.text rev.reverse :: ·) else lexLine (.text (c :: rev)) cs
  | .quoteOpen, [] => none
  | .quoteOpen, c :: cs => lexLine (.quoteClose c) cs
  | .quoteClose _, [] => none
  | .quoteClose q, c :: cs => if c = '\'' then (lexLine (.plain []) cs).map (.quoted q :: ·) else none

/-- One or more operands separated by commas. -/
def operandTokens : List AsmToken → Option (List AsmToken)
  | [] => none
  | .comma :: _ => none
  | [t] => some [t]
  | t :: .comma :: ts => (operandTokens ts).map (t :: ·)
  | _ :: _ :: _ => none

/-- A digit's value, for letters in upper case. -/
def digitValue (c : Char) : Option Nat :=
  if '0' ≤ c ∧ c ≤ '9' then some (c.toNat - 48)
  else if 'A' ≤ c ∧ c ≤ 'F' then some (c.toNat - 55)
  else none

/-- The digits of a number in a radix, read onto `acc`. -/
def digitsValue (radix acc : Nat) : List Char → Option Nat
  | [] => some acc
  | c :: cs =>
    match digitValue c with
    | none => none
    | some d => if d < radix then digitsValue radix (acc * radix + d) cs else none

/-- A decimal number, or a hexadecimal one after `0x`, of any number of digits: the operand of `.word` and the n of `#n`
(R81; log entry 16). -/
def numberOf : List Char → Option Nat
  | [] => none
  | ['0', 'X'] => none
  | '0' :: 'X' :: cs => digitsValue 16 0 cs
  | cs => digitsValue 10 0 cs

/-- The number of a `<byte>`: decimal, or hexadecimal in the form `0xHH`, with two digits (R81). -/
def byteNumberOf : List Char → Option Nat
  | ['0', 'X', h, l] => digitsValue 16 0 [h, l]
  | '0' :: 'X' :: _ => none
  | cs => numberOf cs

/-- `<variant>` (R81). -/
def variantOf : AsmToken → Option VariantArg
  | .word ['F', 'N', 'V', '0'] => some .fnv0
  | .word ['F', 'N', 'V', '1'] => some .fnv1
  | .word ['F', 'N', 'V', '1', 'A'] => some .fnv1a
  | .word ('#' :: cs) => (numberOf cs).map .raw
  | _ => none

/-- `<width>` (R81). -/
def widthOf : AsmToken → Option WidthArg
  | .word ['W', '3', '2'] => some (.named .w32)
  | .word ['W', '6', '4'] => some (.named .w64)
  | .word ['W', '1', '2', '8'] => some (.named .w128)
  | .word ['W', '2', '5', '6'] => some (.named .w256)
  | .word ['W', '5', '1', '2'] => some (.named .w512)
  | .word ['W', '1', '0', '2', '4'] => some (.named .w1024)
  | .word ('#' :: cs) => (numberOf cs).map .raw
  | _ => none

/-- `<byte>` (R81). -/
def byteOf : AsmToken → Option ByteArg
  | .quoted c => some (.quoted c)
  | .word cs => (byteNumberOf cs).map .number
  | _ => none

/-- Every operand as a `<byte>`. -/
def bytesOf : List AsmToken → Option (List ByteArg)
  | [] => some []
  | t :: ts => do
    let b ← byteOf t
    let bs ← bytesOf ts
    pure (b :: bs)

/-- The mnemonics and pseudo-instructions (R81, R82). -/
inductive AsmKeyword where
  | nop | init | fold | finish | clear | rawWord | foldb | folds | hash
deriving DecidableEq, Repr

/-- The keyword a word in upper case spells. -/
def keywordOf : List Char → Option AsmKeyword
  | ['N', 'O', 'P'] => some .nop
  | ['I', 'N', 'I', 'T'] => some .init
  | ['F', 'O', 'L', 'D'] => some .fold
  | ['F', 'I', 'N', 'I', 'S', 'H'] => some .finish
  | ['C', 'L', 'E', 'A', 'R'] => some .clear
  | ['.', 'W', 'O', 'R', 'D'] => some .rawWord
  | ['F', 'O', 'L', 'D', 'B'] => some .foldb
  | ['F', 'O', 'L', 'D', 'S'] => some .folds
  | ['H', 'A', 'S', 'H'] => some .hash
  | _ => none

/-- A line whose keyword takes operands. -/
def lineWithOperands : AsmKeyword → List AsmToken → Option AsmLine
  | .init, [v, w] => do
    let va ← variantOf v
    let wa ← widthOf w
    pure (.init va wa)
  | .fold, [b] => (byteOf b).map .fold
  | .rawWord, [.word cs] => (numberOf cs).map .rawWord
  | .foldb, ts => (bytesOf ts).map .foldb
  | .folds, [.text t] => some (.folds t)
  | .hash, [v, w, .text t] => do
    let va ← variantOf v
    let wa ← widthOf w
    pure (.hash va wa t)
  | _, _ => none

/-- The line a list of tokens spells; `none` is an assembly error (R81). -/
def parseTokens : List AsmToken → Option AsmLine
  | [] => some .blank
  | [.word k] =>
    match keywordOf k with
    | some .nop => some .nop
    | some .finish => some .finish
    | some .clear => some .clear
    | _ => none
  | .word k :: ts => do
    let key ← keywordOf k
    let operands ← operandTokens ts
    lineWithOperands key operands
  | _ => none

/-- One line of text, read. -/
def parseLine (cs : List Char) : Option AsmLine := do
  let ts ← lexLine (.plain []) cs
  parseTokens ts

/-- The lines of a program's text, read. -/
def parseLines : List (List Char) → Option (List AsmLine)
  | [] => some []
  | l :: ls => do
    let x ← parseLine l
    let xs ← parseLines ls
    pure (x :: xs)

/-- A program's text to the command words the host writes to CMD; `none` is an assembly error, and nothing is written
(R81). -/
def assembleText (text : List (List Char)) : Option (List Word) := do
  let ls ← parseLines text
  assembleLines ls

end Sys2Proof
end

