-- ==== Sys2Proof/Machine/HostSide.lean ====
section
/-! DEFINITION. Machine/HostSide.lean: what the host computes around the engine (43_digest_readout.md): the accesses of a
hash, the digest put together from its words, the call `hash` (R175), the formatter (R173), and the mathematical digest F
that R175 compares with. None of it is in the hardware block (00_scope.md R2). -/

namespace Sys2Proof.Machine

/-- The host's accesses taken one after the other (R57, R58), stopping where one is refused or faults. -/
def runAccesses : List Access → State → Host.Outcome State Fault Refusal
  | [], s => .next s
  | a :: as, s =>
    match accept a s with
    | .next t => runAccesses as t
    | .fault r => .fault r
    | .refused r => .refused r

/-- The command words of a computation: INIT, one FOLD for each byte in sequence order (R52), FINISH (R175). -/
def hashCommands (v ws : Nibble) (bytes : List Byte) : List Word :=
  encode (.init v ws) :: (bytes.map fun b => encode (.fold b)) ++ [encode .finish]

/-- `n` reads of DIGEST[0], DIGEST[1], … (R175). -/
def digestReads (n : Nat) : List Access := (List.range n).map Access.readDigest

/-- All the accesses of R175 for a width with `n` digest words: the commands, the STATUS read, the DIGEST reads. -/
def hashAccesses (v ws : Nibble) (bytes : List Byte) (n : Nat) : List Access :=
  (hashCommands v ws bytes).map Access.command ++ Access.readStatus :: digestReads n

/-- `Σ DIGEST[k] · 2^(32k)` over the words, word 0 first (R171, R175). -/
def digestOfWords : List Word → Nat
  | [] => 0
  | w :: ws => w.toNat + 2 ^ Config.digestWordBits * digestOfWords ws

/-- The words a list of replies holds, when every reply has a value. -/
def wordsOf : List (Option Word) → Option (List Word)
  | [] => some []
  | none :: _ => none
  | some w :: rs => (wordsOf rs).map (w :: ·)

/-- The number of DIGEST words of a WSEL code, W/32 (R75). -/
def digestWordCount (ws : Nibble) : Nat :=
  match Width.ofCode ws with
  | none => 0
  | some w => w.bits / Config.digestWordBits

/-- What `hash` answers: the digest, or the ERR field of STATUS (R175). -/
inductive HashResult where
  | digest (d : Nat)
  | error (code : BitVec 3)
deriving DecidableEq, Repr

/-- `hash(v, ws, bytes)` on an engine (R175): the commands, then STATUS, then the DIGEST words. `none` would be a run the
engine stops or a DIGEST read with no value. -/
def hostHash (s : State) (v ws : Nibble) (bytes : List Byte) : Option HashResult :=
  match runAccesses ((hashCommands v ws bytes).map Access.command) s with
  | .fault _ => none
  | .refused _ => none
  | .next t =>
    if (status t).extractLsb' 0 3 = SeqState.done.code then
      (wordsOf ((List.range (digestWordCount ws)).map fun k => readPort t (.digest k))).map
        fun words => .digest (digestOfWords words)
    else some (.error ((status t).extractLsb' 4 3))

/-- `F(v, ws, bytes)` of R175, over the constants of ws: the seed, then one step for each byte. -/
def fnvDigest (c : Consts) (v : Nibble) (bytes : List Byte) : Nat := bytes.foldl (foldStep c v) (seed c v)

/-- `h(n)` of R173. -/
def hexDigit (hc : HexCase) (n : Nat) : Char :=
  match hc with
  | .lower => ['0', '1', '2', '3', '4', '5', '6', '7', '8', '9', 'a', 'b', 'c', 'd', 'e', 'f'].getD n '0'
  | .upper => ['0', '1', '2', '3', '4', '5', '6', '7', '8', '9', 'A', 'B', 'C', 'D', 'E', 'F'].getD n '0'

/-- The low `n` hexadecimal digits of `d`, most significant first. -/
def hexDigits (hc : HexCase) : Nat → Nat → List Char
  | 0, _ => []
  | n + 1, d => hexDigit hc (d / 16 ^ n % 16) :: hexDigits hc n d

/-- `format(d, W)` (R173), as the list of its characters: W/4 digits, no prefix, leading zeros kept. -/
def formatDigest (hc : HexCase) (W d : Nat) : List Char := hexDigits hc (W / 4) d

end Sys2Proof.Machine
end

