-- ==== Sys2Proof/Machine/Limbs.lean ====
section
/-! DEFINITION. Machine/Limbs.lean: the primitives on limbs (41_wide_arith.md R121, R122, R124). It is
internal: no port shows a limb (10_state.md R33), and the machine multiplies by `mulW` (R120). `L` is `LIMB_BITS`. -/

namespace Sys2Proof.Machine

/-- What R121 asks of `LIMB_BITS`: "L must divide every supported W, and L ≥ 8". -/
def LimbBitsOk (r : Rom) (L : Nat) : Prop := 8 ≤ L ∧ ∀ ws c, r.const ws = some c → L ∣ c.bits

/-- The n limbs of a value, least significant first (R121). -/
def toLimbs (L : Nat) : Nat → Nat → List Nat
  | 0, _ => []
  | n + 1, a => a % 2 ^ L :: toLimbs L n (a / 2 ^ L)

/-- `Σ a_i · 2^(L·i)` (R121). -/
def limbsValue (L : Nat) : List Nat → Nat
  | [] => 0
  | x :: xs => x + 2 ^ L * limbsValue L xs

/-- The intermediate `t` of R122's inner loop. -/
def limbTerm (r ai pj carry : Nat) : Nat := r + ai * pj + carry

/-- R122's inner loop over j, for one limb `ai` of a: the first list is r[i..n-1], the second p[0..]. The loop ends with
the last limb of r, and the carry out of it is discarded. -/
def mulRow (L ai : Nat) : List Nat → List Nat → Nat → List Nat
  | r :: rs, pj :: ps, carry =>
    limbTerm r ai pj carry % 2 ^ L :: mulRow L ai rs ps (limbTerm r ai pj carry / 2 ^ L)
  | rs, _, _ => rs

/-- R122's outer loop over i: row i changes r[i..n-1], and r[i] is final after it. -/
def mulRows (L : Nat) : List Nat → List Nat → List Nat → List Nat
  | [], _, rs => rs
  | ai :: as, ps, rs =>
    match mulRow L ai rs ps 0 with
    | [] => []
    | x :: xs => x :: mulRows L as ps xs

/-- `MulW_limbs` on two n-limb operands (R122). -/
def mulLimbs (L n a p : Nat) : Nat :=
  limbsValue L (mulRows L (toLimbs L n a) (toLimbs L n p) (List.replicate n 0))

/-- XorByte in the limb form: limb 0 alone takes the byte (R124). -/
def xorLimbs : List Nat → Byte → List Nat
  | [], _ => []
  | x :: xs, b => (x ^^^ b.toNat) :: xs

end Sys2Proof.Machine
end

