-- ==== Sys2Proof/Machine/Platform.lean ====
section
/-! DEFINITION. Machine/Platform.lean: a platform with any number of instances, each at its own `BASE`
(60_exceptions.md R214, 20_memory.md R53, R62). Instances share nothing. -/

namespace Sys2Proof.Machine

/-- One placed instance. `base` is the platform parameter `BASE` (R53). -/
structure Placed where
  base   : Nat
  engine : State
deriving DecidableEq, Repr

/-- The offset a host address has in the block at `base`, from `BASE` to `BASE + 0xFF` (R53). -/
def blockOffset (base addr : Nat) : Option (BitVec 8) :=
  if base ≤ addr ∧ addr ≤ base + 0xFF then some (BitVec.ofNat 8 (addr - base)) else none

/-- The host puts one more access to an instance's port; it is held behind the earlier ones (R244). -/
def State.offer (s : State) (a : Access) : State := { s with offered := s.offered ++ [a] }

/-- The host's access at an address goes to the instance whose block holds it (the first, log entry 14); `none` where no
block does. -/
def offerAt (addr : Nat) (size : AccessSize) (op : AccessOp) : List Placed → Option (List Placed)
  | [] => none
  | p :: ps =>
    match blockOffset p.base addr with
    | some off => some ({ p with engine := p.engine.offer ⟨off, size, op⟩ } :: ps)
    | none => (offerAt addr size op ps).map (p :: ·)

/-- Instance `k` takes one step; the others do not move (R62). A `k` past the last instance steps nothing. -/
def stepAt : Nat → List Placed → Host.Outcome (List Placed) Fault Refusal
  | _, [] => .next []
  | 0, p :: ps =>
    match step p.engine with
    | .next t => .next ({ p with engine := t } :: ps)
    | .fault r => .fault r
    | .refused r => .refused r
  | k + 1, p :: ps =>
    match stepAt k ps with
    | .next qs => .next (p :: qs)
    | .fault r => .fault r
    | .refused r => .refused r

/-- The platform asserts instance `k`'s reset (R240). -/
def assertResetAt : Nat → List Placed → List Placed
  | _, [] => []
  | 0, p :: ps => { p with engine := { p.engine with resetReq := true } } :: ps
  | k + 1, p :: ps => p :: assertResetAt k ps

end Sys2Proof.Machine
end

