-- ==== Sys2Proof/Machine/Build.lean ====
section
/-! DEFINITION. Machine/Build.lean: the machine of any build, `SUPPORTED_WSEL` and `CONST_ROM` taken as configuration
(00_scope.md R6, 70_reset_and_hazards.md R249). -/

namespace Sys2Proof.Machine

/-- The machine with its configuration as an argument (R249). A step takes the constants from the ROM the build's reset
set, and writes none of them; `core` is the machine of the default build. -/
def coreOf (b : Build) : Host.Core where
  State := State
  Fault := Fault
  Refusal := Refusal
  step := step
  reset := State.resetOf b

end Sys2Proof.Machine
end

