-- ==== Sys2Proof/Safety.lean ====
section
/-! DEFINITION. Safety.lean: the terms claims are stated in: the register invariant (10_state.md R30), a port whose held
accesses are all inside the interface (20_memory.md R54), two states with the same registers and ROM, and the transition
table (42_commands.md R141). -/

namespace Sys2Proof.Machine

/-- The engine holds a computation: SEEDED, FOLDING or DONE (R30). -/
def SeqState.holdsValue : SeqState → Bool
  | .idle => false
  | .seeded => true
  | .folding => true
  | .done => true
  | .error => false

/-- The invariant of R30, implication by implication. -/
structure State.Inv (s : State) : Prop where
  idle : s.state = .idle → s.err = .none ∧ s.var = 0 ∧ s.wsel = 0 ∧ s.acc = none
  active : s.state.holdsValue = true →
    s.err = .none ∧ s.var.toNat ≤ 2 ∧ ∃ c a, s.rom.const s.wsel = some c ∧ s.acc = some a ∧ a < 2 ^ c.bits
  error : s.state = .error → s.err ≠ .none ∧ s.acc = none
  seeded0 : s.state = .seeded → s.var = 0 → s.acc = some 0
  seededBasis : s.state = .seeded → s.var = 1 ∨ s.var = 2 →
    ∃ c, s.rom.const s.wsel = some c ∧ s.acc = some c.basis

/-- Every access the host has put to the port is one R54 allows. -/
def State.PortClean (s : State) : Prop := ∀ a ∈ s.offered, a.inInterface = true

/-- The two states have the same registers (R20) and the same ROM (R34): all a command may consult (R140). -/
structure State.SameEngine (s u : State) : Prop where
  state : s.state = u.state
  err : s.err = u.err
  var : s.var = u.var
  wsel : s.wsel = u.wsel
  acc : s.acc = u.acc
  rom : s.rom = u.rom

/-- The eight columns of the transition table (R141). -/
inductive CommandClass where
  | nop | initSupported | initBadWidth | initBadVariant | fold | finish | clear | illegalWord
deriving DecidableEq, Repr

/-- The column a command word falls under. A bad width takes priority over a bad variant (R141, R206). -/
def commandClass (r : Rom) (w : Word) : CommandClass :=
  match decode w with
  | .error _ => .illegalWord
  | .ok .nop => .nop
  | .ok (.init v ws) =>
    if (r.const ws).isNone then .initBadWidth else if v.toNat ≤ 2 then .initSupported else .initBadVariant
  | .ok (.fold _) => .fold
  | .ok .finish => .finish
  | .ok .clear => .clear

/-- The transition table, entry by entry (R141): the next STATE and the next ERR, from the ERR before. -/
def transitionTable (err : ErrCode) : SeqState → CommandClass → SeqState × ErrCode
  | .idle, .nop => (.idle, err)
  | .idle, .initSupported => (.seeded, .none)
  | .idle, .initBadWidth => (.error, .unsupportedWidth)
  | .idle, .initBadVariant => (.error, .unsupportedVariant)
  | .idle, .fold => (.error, .sequence)
  | .idle, .finish => (.error, .sequence)
  | .idle, .clear => (.idle, .none)
  | .idle, .illegalWord => (.error, .illegalCommand)
  | .seeded, .nop => (.seeded, err)
  | .seeded, .initSupported => (.seeded, .none)
  | .seeded, .initBadWidth => (.error, .unsupportedWidth)
  | .seeded, .initBadVariant => (.error, .unsupportedVariant)
  | .seeded, .fold => (.folding, err)
  | .seeded, .finish => (.done, err)
  | .seeded, .clear => (.idle, .none)
  | .seeded, .illegalWord => (.error, .illegalCommand)
  | .folding, .nop => (.folding, err)
  | .folding, .initSupported => (.seeded, .none)
  | .folding, .initBadWidth => (.error, .unsupportedWidth)
  | .folding, .initBadVariant => (.error, .unsupportedVariant)
  | .folding, .fold => (.folding, err)
  | .folding, .finish => (.done, err)
  | .folding, .clear => (.idle, .none)
  | .folding, .illegalWord => (.error, .illegalCommand)
  | .done, .nop => (.done, err)
  | .done, .initSupported => (.seeded, .none)
  | .done, .initBadWidth => (.error, .unsupportedWidth)
  | .done, .initBadVariant => (.error, .unsupportedVariant)
  | .done, .fold => (.error, .sequence)
  | .done, .finish => (.error, .sequence)
  | .done, .clear => (.idle, .none)
  | .done, .illegalWord => (.error, .illegalCommand)
  | .error, .nop => (.error, err)
  | .error, .initSupported => (.seeded, .none)
  | .error, .initBadWidth => (.error, .unsupportedWidth)
  | .error, .initBadVariant => (.error, .unsupportedVariant)
  | .error, .fold => (.error, err)
  | .error, .finish => (.error, err)
  | .error, .clear => (.idle, .none)
  | .error, .illegalWord => (.error, err)

end Sys2Proof.Machine
end

