-- ==== Sys2Proof/Certificates/Slice0/Obligations.lean ====
section
/-! DEFINITION. Obligations.lean: the statements about FNVE, each from a numbered rule of spec/ or from the section its
docstring names. FNVE has no memory (20_memory.md R50), so a frame speaks of the registers, the ROM and the port. -/

open Sys2Proof Sys2Proof.Machine

-- Encoding

/-- 30_encoding.md section 4: no bit of an encoding is dropped, with every operand at every value. -/
def Obligations.DecodeInvertsEncode : Prop := ∀ i : Instr, decode (encode i) = .ok i

/-- 30_encoding.md sections 3 and 4: decoding accepts nothing but the encodings, so strict decoding loses no bit of a
word. -/
def Obligations.AcceptedWordIsItsEncoding : Prop := ∀ (w : Word) (i : Instr), decode w = .ok i → encode i = w

/-- R73: a word selects a row when `(w & mask) = match`, no word selects two rows, each row fixes OP and the five OPs
are distinct; a word decodes to an instruction of a row exactly when it selects that row. -/
def Obligations.WordSelectsRowIffItDecodesToIt : Prop :=
  opcodeTable =
    [⟨"NOP", 0x00000000, 0xFFFFFFFF⟩, ⟨"INIT", 0x10000000, 0xF00FFFFF⟩, ⟨"FOLD", 0x20000000, 0xFFFFFF00⟩,
      ⟨"FINISH", 0x30000000, 0xFFFFFFFF⟩, ⟨"CLEAR", 0x40000000, 0xFFFFFFFF⟩] ∧
  (∀ (w : Word) (r : OpcodeRow), r ∈ opcodeTable →
    (r.selects w = true ↔ w &&& r.mask = r.pattern) ∧
    (r.selects w = true ↔ ∃ i, decode w = .ok i ∧ i.row = r) ∧
    (r.selects w = true → opField w = opField r.pattern)) ∧
  (∀ (w : Word) (r q : OpcodeRow), r ∈ opcodeTable → q ∈ opcodeTable → r.selects w = true → q.selects w = true → r = q) ∧
  (opcodeTable.map fun r => opField r.pattern) = [0, 1, 2, 3, 4]

/-- R77: a word that selects no row is illegal: it is accepted like any other and signals ILLEGAL_COMMAND. That covers
every word with OP of 5 or more and every word with a must-be-zero bit that is set. -/
def Obligations.IllegalWordSignalsIllegalCommand : Prop :=
  (∀ w : Word, (∀ r ∈ opcodeTable, r.selects w = false) → (∃ why, decode w = .error why) ∧
    ∀ s : State, accept (Access.command w) s = .next (signal .illegalCommand s)) ∧
  (∀ w : Word, (∀ r ∈ opcodeTable, r.selects w = false) ↔
    5 ≤ (opField w).toNat ∨ rsvField w ≠ 0 ∨ (opField w ≠ 1 ∧ (varField w ≠ 0 ∨ wselField w ≠ 0)) ∨
      (opField w ≠ 2 ∧ byteField w ≠ 0))

/-- 95_test_vectors.md T7: words written out from the encoding decode to the instructions they stand for. -/
def Obligations.WrittenOutWordsDecode : Prop :=
  decode 0x00000000 = .ok .nop ∧ decode 0x12500000 = .ok (.init 2 5) ∧ decode 0x1FF00000 = .ok (.init 15 15) ∧
  decode 0x200000FF = .ok (.fold 0xFF) ∧ decode 0x30000000 = .ok .finish ∧ decode 0x40000000 = .ok .clear ∧
  decode 0x20000100 = .error .mustBeZeroBitSet ∧ decode 0x50000000 = .error .unassignedOpcode

/-- 30_encoding.md section 2 and 10_state.md section 2: WSEL selects W = 32 · 2^WSEL for 0 to 5 and no width for 6 to
15. -/
def Obligations.WidthOfCode : Prop :=
  (∀ (ws : Nibble) (w : Width), Width.ofCode ws = some w → w.bits = 32 * 2 ^ ws.toNat) ∧
  ∀ ws : Nibble, Width.ofCode ws = none ↔ 6 ≤ ws.toNat

-- Reset

/-- 10_state.md section 5: the register values after reset, for every build, with the ROM at its build-time contents. That
the machine `core` is the default build with the default table is the model's choice (log entries 8 and 9). -/
def Obligations.ResetRegisterValues : Prop :=
  (∀ b : Build, (State.resetOf b).state = .idle ∧ (State.resetOf b).err = .none ∧ (State.resetOf b).var = 0 ∧
    (State.resetOf b).wsel = 0 ∧ (State.resetOf b).acc = none ∧ status (State.resetOf b) = 0x00000000 ∧
    (State.resetOf b).rom = b.rom ∧ (coreOf b).reset = State.resetOf b) ∧
  State.reset.state = .idle ∧ State.reset.err = .none ∧ State.reset.var = 0 ∧ State.reset.wsel = 0 ∧
  State.reset.acc = none ∧ status State.reset = 0x00000000 ∧ State.reset.rom = defaultRom

/-- R240: reset puts every register to its R35 value, does not change the ROM, and abandons every offered command. -/
def Obligations.PlatformResetTakesRegistersBack : Prop :=
  ∀ s : State, s.resetReq = true → ∃ t, step s = .next t ∧
    t.state = .idle ∧ t.err = .none ∧ t.var = 0 ∧ t.wsel = 0 ∧ t.acc = none ∧ t.rom = s.rom ∧
    ∀ a ∈ t.offered, a.isCommand = false

/-- 70_reset_and_hazards.md section 1, and the model's choices of log entries 6 and 7: a reset drops no held access
but the offered commands, keeps what was returned, and is taken once. -/
def Obligations.ResetKeepsOtherHeldAccesses : Prop :=
  ∀ s : State, s.resetReq = true → ∃ t, step s = .next t ∧ t.resetReq = false ∧ t.replies = s.replies ∧
    ∀ a, a.isCommand = false → t.offered.count a = s.offered.count a

/-- 70_reset_and_hazards.md section 1 (its R243, which the spec derives): the registers after CLEAR equal the
registers after reset. -/
def Obligations.ClearEqualsReset : Prop :=
  ∀ s : State, ∃ t u, accept (Access.command (encode .clear)) s = .next t ∧ step { s with resetReq := true } = .next u ∧
    t.SameEngine u

-- The invariant

/-- 10_state.md R30 with R35: the register invariant holds right after reset, in every build. -/
def Obligations.RegisterInvariantAtReset : Prop := State.reset.Inv ∧ ∀ b : Build, (State.resetOf b).Inv

/-- 10_state.md section 3 (its R30, which the spec derives from R35 and R142 to R150): every command keeps the register
invariant, and so does every step (a reset, a read, an ignored write, an illegal word); it holds after reset. -/
def Obligations.StepKeepsRegisterInvariant : Prop :=
  (∀ b : Build, (State.resetOf b).Inv) ∧ (∀ (i : Instr) (s t : State), s.Inv → exec i s = .next t → t.Inv) ∧
  ∀ s t : State, s.Inv → step s = .next t → t.Inv

/-- R34: the ROM is never written, and the same after reset: no command, reset or host access changes it. -/
def Obligations.StepKeepsRom : Prop := ∀ s t : State, step s = .next t → t.rom = s.rom

-- The commands

/-- R140: `step(S, w) = exec(S, decode(w))` is total on the register states of R30, and it consults nothing beyond the
registers, the command and the ROM. -/
def Obligations.CommandIsTotalAndConsultsRegistersOnly : Prop :=
  (∀ (w : Word) (i : Instr) (s : State), decode w = .ok i → accept (Access.command w) s = exec i s) ∧
  (∀ (w : Word) (s : State), s.Inv → ∃ t, accept (Access.command w) s = .next t) ∧
  ∀ (w : Word) (s u t : State), s.SameEngine u → accept (Access.command w) s = .next t →
    ∃ t', accept (Access.command w) u = .next t' ∧ t.SameEngine t'

/-- R142: NOP writes nothing, in any STATE; only the word 0x00000000 is a NOP, and a word with OP = 0 and any other
bit set is illegal. -/
def Obligations.NopChangesNothing : Prop :=
  (∀ s : State, exec .nop s = .next s) ∧ encode .nop = 0x00000000 ∧
  (∀ w : Word, decode w = .ok .nop ↔ w = 0x00000000) ∧
  ∀ w : Word, opField w = 0 → w ≠ 0x00000000 → ∃ why, decode w = .error why

/-- R144: INIT of a supported width and variant completes from every state with ACC at the seed, a W-bit value: 0 for
FNV-0, the offset basis for FNV-1 and FNV-1a, with W = 32 · 2^ws (R75); nothing but the five registers is written. -/
def Obligations.InitStartsAtTheSeed : Prop :=
  ∀ (s : State) (v ws : Nibble) (c : Consts), s.rom.const ws = some c → v.toNat ≤ 2 →
    exec (.init v ws) s = .next { s with
      state := .seeded, err := .none, var := v, wsel := ws, acc := some (if v.toNat = 0 then 0 else c.basis) } ∧
    (if v.toNat = 0 then 0 else c.basis) < 2 ^ (32 * 2 ^ ws.toNat)

/-- R201: UNSUPPORTED_WIDTH is raised by INIT when CONST(ws) fails, which is when ws ≥ 6 or ws is not in
SUPPORTED_WSEL; also when the variant is unsupported too. -/
def Obligations.InitUnsupportedWidth : Prop :=
  (∀ (r : Rom) (ws : Nibble), r.const ws = none ↔ 6 ≤ ws.toNat ∨ ∃ w, Width.ofCode ws = some w ∧ r.entry w = none) ∧
  (∀ (b : Build) (ws : Nibble), b.rom.const ws = none ↔
    6 ≤ ws.toNat ∨ ∃ w, Width.ofCode ws = some w ∧ w ∉ b.supported) ∧
  ∀ (s : State) (v ws : Nibble), s.rom.const ws = none →
    exec (.init v ws) s = .next { s with state := .error, err := .unsupportedWidth, var := v, wsel := ws, acc := none }

/-- R202: UNSUPPORTED_VARIANT is raised by INIT when the width is supported and v ≥ 3. -/
def Obligations.InitUnsupportedVariant : Prop :=
  ∀ (s : State) (v ws : Nibble) (c : Consts), s.rom.const ws = some c → 3 ≤ v.toNat →
    exec (.init v ws) s = .next { s with state := .error, err := .unsupportedVariant, var := v, wsel := ws, acc := none }

/-- R146: the fold step of FNV-0 and FNV-1 is multiply, then XOR, modulo 2^W; FOLD completes in SEEDED and FOLDING with
nothing but STATE and ACC written. -/
def Obligations.FoldMultipliesThenXors : Prop :=
  ∀ (s : State) (b : Byte) (c : Consts) (a : Nat), s.state = .seeded ∨ s.state = .folding → s.var = 0 ∨ s.var = 1 →
    s.rom.const s.wsel = some c → s.acc = some a →
    exec (.fold b) s = .next { s with state := .folding, acc := some ((a * c.prime % 2 ^ c.bits) ^^^ b.toNat) }

/-- R147: the fold step of FNV-1a is XOR, then multiply, modulo 2^W, in this order. -/
def Obligations.FoldXorsThenMultiplies : Prop :=
  ∀ (s : State) (b : Byte) (c : Consts) (a : Nat), s.state = .seeded ∨ s.state = .folding → s.var = 2 →
    s.rom.const s.wsel = some c → s.acc = some a →
    exec (.fold b) s = .next { s with state := .folding, acc := some ((a ^^^ b.toNat) * c.prime % 2 ^ c.bits) }

/-- 42_commands.md section 2 (FOLD): in a register state of R30, FOLD completes without an error in SEEDED and
FOLDING, ACC stays below 2^W, and everything but STATE and ACC is unchanged. -/
def Obligations.FoldCompletesWhileFolding : Prop :=
  ∀ (s : State) (b : Byte), s.Inv → s.state = .seeded ∨ s.state = .folding →
    ∃ c a, s.rom.const s.wsel = some c ∧ a < 2 ^ c.bits ∧
      exec (.fold b) s = .next { s with state := .folding, acc := some a }

/-- 42_commands.md section 2 (FINISH): FINISH goes to DONE from SEEDED and FOLDING with ACC unchanged; a FINISH in
IDLE or DONE is a SEQUENCE error that leaves no digest; in ERROR the earlier error stays. -/
def Obligations.FinishMarksDone : Prop :=
  (∀ s : State, s.state = .seeded ∨ s.state = .folding → exec .finish s = .next { s with state := .done }) ∧
  (∀ s : State, s.state = .idle ∨ s.state = .done →
    exec .finish s = .next { s with state := .error, err := .sequence, acc := none }) ∧
  (∀ s : State, s.state = .error → exec .finish s = .next s) ∧
  ∀ w : Word, decode w = .ok .finish ↔ w = 0x30000000

/-- R149: CLEAR returns every register to its reset value in every STATE, and STATUS becomes 0. -/
def Obligations.ClearReturnsToResetRegisters : Prop :=
  (∀ s : State, exec .clear s = .next { s with state := .idle, err := .none, var := 0, wsel := 0, acc := none }) ∧
  (∀ s t : State, exec .clear s = .next t → status t = 0x00000000) ∧
  ∀ w : Word, decode w = .ok .clear ↔ w = 0x40000000

/-- R204: SEQUENCE is raised by FOLD or FINISH in IDLE or DONE; in ERROR the same commands leave the earlier error. -/
def Obligations.SequenceErrorOutsideInput : Prop :=
  ∀ (s : State) (i : Instr), (i = .finish ∨ ∃ b, i = .fold b) →
    (s.state = .idle ∨ s.state = .done → exec i s = .next { s with state := .error, err := .sequence, acc := none }) ∧
    (s.state = .error → exec i s = .next s)

/-- R203: `signal` is the error primitive of FOLD, FINISH and illegal words; it writes STATE, ERR and ACC unless STATE
is ERROR, and never VAR or WSEL. A failed INIT writes them unconditionally, so it replaces an earlier error, and a
successful one clears it. Only INIT, CLEAR and reset leave ERROR. -/
def Obligations.FirstErrorIsSticky : Prop :=
  (∀ (s : State) (i : Instr), (i = .finish ∨ ∃ b, i = .fold b) → s.state ≠ .seeded → s.state ≠ .folding →
    exec i s = .next (signal .sequence s)) ∧
  (∀ (s : State) (w : Word) (why : Illegal), decode w = .error why →
    accept (Access.command w) s = .next (signal .illegalCommand s)) ∧
  (∀ (e : ErrCode) (s : State), s.state ≠ .error → signal e s = { s with state := .error, err := e, acc := none }) ∧
  (∀ (e : ErrCode) (s : State), s.state = .error → signal e s = s) ∧
  (∀ (s : State) (v ws : Nibble), s.state = .error → ∃ t, exec (.init v ws) s = .next t ∧
    (t.state = .seeded ∧ t.err = .none ∨
      t.state = .error ∧ t.acc = none ∧ (t.err = .unsupportedWidth ∨ t.err = .unsupportedVariant))) ∧
  ∀ s t : State, s.state = .error → step s = .next t →
    t.state = .error ∧ t.err = s.err ∧ t.acc = s.acc ∧ t.var = s.var ∧ t.wsel = s.wsel ∨ s.resetReq = true ∨
      ∃ (i : Instr) (rest : List Access), s.offered = Access.command (encode i) :: rest ∧
        (i = .clear ∨ ∃ v ws, i = .init v ws)

/-- 42_commands.md section 1 (its R141, which the spec derives from R142 to R150): the complete transition function on
STATE, with the ERR each entry names. -/
def Obligations.TransitionTableHolds : Prop :=
  ∀ (w : Word) (s : State), s.Inv → ∃ t, accept (Access.command w) s = .next t ∧
    (t.state, t.err) = transitionTable s.err s.state (commandClass s.rom w)

/-- R206: one command raises at most one error; an illegal word comes first, then the width, then the variant, then the
state. -/
def Obligations.ErrorChecksInOrder : Prop :=
  (∀ (w : Word) (s t : State) (why : Illegal), decode w = .error why → s.state ≠ .error →
    accept (Access.command w) s = .next t → t.err = .illegalCommand) ∧
  (∀ (s t : State) (v ws : Nibble), s.rom.const ws = none → exec (.init v ws) s = .next t → t.err = .unsupportedWidth) ∧
  (∀ (s t : State) (v ws : Nibble), s.rom.const ws ≠ none → 3 ≤ v.toNat → exec (.init v ws) s = .next t →
    t.err = .unsupportedVariant) ∧
  ∀ (s t : State) (i : Instr), (i = .finish ∨ ∃ b, i = .fold b) → s.state ≠ .error → exec i s = .next t →
    (t.err = s.err ∧ (s.state = .seeded ∨ s.state = .folding)) ∨
      (t.err = .sequence ∧ (s.state = .idle ∨ s.state = .done))

/-- The frame of every command (10_state.md R32 and R34, 60_exceptions.md R203): the ROM and the port never move; NOP writes
nothing; FOLD and FINISH leave VAR and WSEL; FOLD and FINISH leave ERR, and FINISH leaves ACC, where they raise no
error. -/
def Obligations.CommandFrame : Prop :=
  ∀ (i : Instr) (s t : State), exec i s = .next t →
    t.rom = s.rom ∧ t.resetReq = s.resetReq ∧ t.offered = s.offered ∧ t.replies = s.replies ∧
    (i = .nop → t = s) ∧
    ((i = .finish ∨ ∃ b, i = .fold b) → t.var = s.var ∧ t.wsel = s.wsel ∧ (t.state ≠ .error → t.err = s.err)) ∧
    (i = .finish → t.state ≠ .error → t.acc = s.acc)

/-- 10_state.md R23 and R24: in any step but a reset, VAR and WSEL change only by an INIT, which writes its codes
verbatim whether it succeeds or fails, and by CLEAR, which writes 0. -/
def Obligations.OnlyInitAndClearWriteVarAndWsel : Prop :=
  ∀ s t : State, s.resetReq = false → step s = .next t →
    (t.var = s.var ∧ t.wsel = s.wsel) ∨
    (∃ (v ws : Nibble) (rest : List Access),
      s.offered = Access.command (encode (.init v ws)) :: rest ∧ t.var = v ∧ t.wsel = ws) ∨
    (∃ rest : List Access, s.offered = Access.command (encode .clear) :: rest ∧ t.var = 0 ∧ t.wsel = 0)

/-- 42_commands.md section 3 (its R152, which the spec derives from R143): a successful INIT starts fresh. From any
two states with the same ROM the registers after it are the same, with ACC at the seed. -/
def Obligations.InitStartsFresh : Prop :=
  ∀ (s u : State) (v ws : Nibble) (c : Consts), s.rom = u.rom → v.toNat ≤ 2 → s.rom.const ws = some c →
    ∃ t t', exec (.init v ws) s = .next t ∧ exec (.init v ws) u = .next t' ∧ t.state = .seeded ∧
      t.acc = some (seed c v) ∧ t.SameEngine t'

/-- 42_commands.md section 3 (its R151, which the spec derives from R141 and R145): if every command of a computation
is a FOLD, no error can occur in it; it stays in SEEDED or FOLDING. -/
def Obligations.FoldsRaiseNoError : Prop :=
  ∀ (s : State) (bytes : List Byte), s.Inv → s.state = .seeded ∨ s.state = .folding →
    ∃ t, runAccesses (bytes.map fun b => Access.command (encode (.fold b))) s = .next t ∧
      (t.state = .seeded ∨ t.state = .folding) ∧ t.err = .none

-- The register block

/-- R28: STATUS is assembled from the registers, with the codes of R21 and R22; its reserved bits read 0, and no host write
reaches it. -/
def Obligations.StatusFields : Prop :=
  (SeqState.idle.code = 0 ∧ SeqState.seeded.code = 1 ∧ SeqState.folding.code = 2 ∧ SeqState.done.code = 3 ∧
    SeqState.error.code = 4) ∧
  (ErrCode.none.code = 0 ∧ ErrCode.unsupportedWidth.code = 1 ∧ ErrCode.unsupportedVariant.code = 2 ∧
    ErrCode.sequence.code = 3 ∧ ErrCode.illegalCommand.code = 4) ∧
  ∀ s : State,
    ((status s).extractLsb' 0 3 = s.state.code ∧ (status s).extractLsb' 3 1 = 0 ∧
      (status s).extractLsb' 4 3 = s.err.code ∧ (status s).extractLsb' 7 1 = 0 ∧
      (status s).extractLsb' 8 4 = s.var ∧ (status s).extractLsb' 12 4 = s.wsel ∧
      (status s).extractLsb' 16 16 = 0) ∧
    accept Access.readStatus s = .next { s with replies := s.replies ++ [some (status s)] } ∧
    ∀ w : Word, accept ⟨0x04, .word, .write w⟩ s = .next s

/-- R55: what a 32-bit access does at each offset of the block. -/
def Obligations.RegisterMap : Prop :=
  (∀ (s : State) (off : BitVec 8) (w : Word), off.toNat % 4 = 0 → off ≠ 0x00 →
    accept ⟨off, .word, .write w⟩ s = .next s) ∧
  (∀ (s : State) (off : BitVec 8), off.toNat % 4 = 0 →
    off.toNat = 0x00 ∨ (0x08 ≤ off.toNat ∧ off.toNat ≤ 0x3C) ∨ 0xC0 ≤ off.toNat →
    accept ⟨off, .word, .read⟩ s = .next { s with replies := s.replies ++ [some 0x00000000] }) ∧
  (∀ s : State, accept ⟨0x04, .word, .read⟩ s = .next { s with replies := s.replies ++ [some (status s)] }) ∧
  (∀ (s : State) (k : Nat), k < 32 →
    accept ⟨BitVec.ofNat 8 (0x40 + 4 * k), .word, .read⟩ s =
      .next { s with replies := s.replies ++ [digestWord s k] }) ∧
  ∀ (s : State) (w : Word), accept ⟨0x00, .word, .write w⟩ s = acceptCommand w s

/-- R54: an access that is not a single 32-bit access at a multiple of 4 is refused: no step, no value. -/
def Obligations.AccessOutsideInterfaceIsRefused : Prop :=
  (∀ (a : Access) (s : State), a.size ≠ .word ∨ a.offset.toNat % 4 ≠ 0 →
    accept a s = .refused .accessOutsideInterface) ∧
  ∀ (a : Access) (rest : List Access) (s : State), a.size ≠ .word ∨ a.offset.toNat % 4 ≠ 0 → s.resetReq = false →
    s.offered = a :: rest → step s = .refused .accessOutsideInterface

/-- R29, at every readable offset: a read changes no register, and read again after any accesses of the interface that are
no command it returns the same value. -/
def Obligations.ReadHasNoSideEffect : Prop :=
  ∀ (s : State) (off : BitVec 8) (between : List Access), off.toNat % 4 = 0 →
    (∀ a ∈ between, a.inInterface = true ∧ a.isCommand = false) →
    ∃ t u t' v, accept ⟨off, .word, .read⟩ s = .next t ∧ runAccesses between t = .next u ∧
      accept ⟨off, .word, .read⟩ u = .next t' ∧ s.SameEngine t ∧ s.SameEngine u ∧ s.SameEngine t' ∧
      t.replies = s.replies ++ [v] ∧ t'.replies = u.replies ++ [v]

/-- R171: in DONE and for k < W/32, a read at offset 0x40 + 4k returns DIGEST[k], bits [32k+31:32k] of ACC, and the
W/32 words together are the digest, ACC. -/
def Obligations.DigestWordsAreTheDigest : Prop :=
  (∀ (s : State) (c : Consts) (a k : Nat), s.state = .done → s.rom.const s.wsel = some c → s.acc = some a →
    k < c.bits / 32 →
    ∃ d, digestWord s k = some d ∧ (∀ j, j < 32 → d.getLsbD j = a.testBit (32 * k + j)) ∧
      accept ⟨BitVec.ofNat 8 (0x40 + 4 * k), .word, .read⟩ s = .next { s with replies := s.replies ++ [some d] }) ∧
  ∀ s : State, s.Inv → s.state = .done →
    ∃ c a words, s.rom.const s.wsel = some c ∧ s.acc = some a ∧
      wordsOf ((List.range (c.bits / 32)).map (digestWord s)) = some words ∧ words.length = c.bits / 32 ∧
      digestOfWords words = a

/-- R172: a DIGEST read has no value when STATE ≠ DONE and when k ≥ W/32 in DONE, and no side effect. -/
def Obligations.DigestOutsideDoneHasNoValue : Prop :=
  (∀ (s : State) (k : Nat), s.state ≠ .done → digestWord s k = none) ∧
  (∀ (s : State) (c : Consts) (k : Nat), s.state = .done → s.rom.const s.wsel = some c → c.bits / 32 ≤ k →
    digestWord s k = none) ∧
  ∀ (s : State) (k : Nat), k < 32 → digestWord s k = none →
    accept (Access.readDigest k) s = .next { s with replies := s.replies ++ [none] }

-- Steps

/-- 42_commands.md section 1 and 20_memory.md section 3: with no reset pending, a step whose oldest held access is the
write of a word that decodes to `i` is `exec i`, on the state with that access completed; for every other access it is
`accept`; with nothing offered the engine holds its state (log entries 1 and 2). -/
def Obligations.StepRunsTheOldestAccess : Prop :=
  (∀ (s : State) (w : Word) (i : Instr) (rest : List Access), s.resetReq = false →
    s.offered = Access.command w :: rest → decode w = .ok i → step s = exec i { s with offered := rest }) ∧
  (∀ (s : State) (a : Access) (rest : List Access), s.resetReq = false → s.offered = a :: rest →
    step s = accept a { s with offered := rest }) ∧
  (∀ s : State, s.resetReq = false → s.offered = [] → step s = .next s) ∧
  ∀ (s : State) (i : Instr), step (s.withFetchWord 32 (encode i).toNat) = exec i { s with resetReq := false }

/-- R57: the engine takes the held accesses in their order, one at a time, each exactly once: as many steps as
accesses do what the accesses do one after the other. -/
def Obligations.StepsTakeHeldAccessesInOrder : Prop :=
  ∀ s : State, s.resetReq = false →
    Host.Core.run core s.offered.length s = runAccesses s.offered { s with offered := [] }

/-- 70_reset_and_hazards.md section 2: an accepted command is never dropped, duplicated or reordered, and every held
access gets its step: from a register state of R30, a clean port is served whole, and what the steps reach is what the
accesses do one after the other. -/
def Obligations.EveryHeldAccessIsServed : Prop :=
  ∀ s : State, s.Inv → s.PortClean → s.resetReq = false →
    ∃ t, Host.Core.run core s.offered.length s = .next t ∧ runAccesses s.offered { s with offered := [] } = .next t ∧
      t.offered = [] ∧ t.Inv ∧ t.replies.length = s.replies.length + s.offered.countP fun a => a.op == .read

-- Arithmetic

/-- 41_wide_arith.md sections 1 to 3: MulW is the exact product modulo 2^W, and MulW and XorByte equal the native wrapping
operations on W-bit unsigned integers (R126, which the spec derives). -/
def Obligations.PrimitivesAreNativeWrapping : Prop :=
  (∀ W a p : Nat, mulW W a p = (a * p) % 2 ^ W) ∧
  (∀ (W : Nat) (a p : BitVec W), mulW W a.toNat p.toNat = (a * p).toNat) ∧
  ∀ (W : Nat) (a : BitVec W) (b : Byte), xorByte W a.toNat b = (a ^^^ b.setWidth W).toNat

/-- R123: XorByte changes bits [7:0] only. -/
def Obligations.XorByteChangesLowByteOnly : Prop :=
  ∀ (W a : Nat) (b : Byte), 8 ≤ W → ∀ j, (xorByte W a b).testBit j = (if j < 8 then a.testBit j ^^ b.getLsbD j else a.testBit j)

/-- 41_wide_arith.md section 3 (its R127, which the spec derives): every result of MulW and XorByte is below 2^W. -/
def Obligations.PrimitivesStayBelowWidth : Prop :=
  (∀ W a p : Nat, mulW W a p < 2 ^ W) ∧ ∀ (W a : Nat) (b : Byte), a < 2 ^ W → xorByte W a b < 2 ^ W

/-- 41_wide_arith.md section 3 (its R128): the two orders agree on the byte 0 and are different functions. The values of
the second clause are R128's; the 32-bit constants it reads are the default table's (PRESUMED, log entry 9). -/
def Obligations.FoldOrdersDiffer : Prop :=
  (∀ (c : Consts) (a : Nat), step1 c a 0 = mulW c.bits a c.prime ∧ step1a c a 0 = mulW c.bits a c.prime) ∧
  ∃ c, defaultRom.const 0 = some c ∧ step1 c 0x811C9DC5 0x61 = 0x050C5D7E ∧ step1a c 0x811C9DC5 0x61 = 0xE40C292C

/-- 41_wide_arith.md section 3 (its R129, which the spec derives): the corner-case laws of MulW and XorByte. -/
def Obligations.CornerCaseLaws : Prop :=
  (∀ W p : Nat, mulW W 0 p = 0) ∧ (∀ W p : Nat, p < 2 ^ W → mulW W 1 p = p) ∧
  (∀ W p : Nat, 0 < W → p % 2 = 1 → mulW W (2 ^ (W - 1)) p = 2 ^ (W - 1)) ∧
  (∀ W p : Nat, 0 < p → p < 2 ^ W → mulW W (2 ^ W - 1) p = 2 ^ W - p) ∧
  (∀ W a p : Nat, mulW W a p = mulW W (a % 2 ^ W) p) ∧
  (∀ W p : Nat, p % 2 = 1 → ∀ y, y < 2 ^ W → ∃ a, a < 2 ^ W ∧ mulW W a p = y ∧
    ∀ a', a' < 2 ^ W → mulW W a' p = y → a' = a) ∧
  (∀ W a : Nat, xorByte W a 0 = a) ∧ (∀ (W a : Nat) (b : Byte), xorByte W (xorByte W a b) b = a) ∧
  ∀ (W a : Nat) (b : Byte), a < 2 ^ W → xorByte W a b < 2 ^ W

/-- 41_wide_arith.md section 1 (R122, whose equality with R120 the spec derives): the limb algorithm's result is
MulW's, for every limb width and number of limbs; its intermediate t needs 2L bits and no more, and the carry stays
below 2^L. -/
def Obligations.LimbMultiplierEqualsMulw : Prop :=
  (∀ L n a p : Nat, 0 < L → mulLimbs L n a p = mulW (L * n) a p) ∧
  ∀ L r ai pj carry : Nat, r < 2 ^ L → ai < 2 ^ L → pj < 2 ^ L → carry < 2 ^ L →
    limbTerm r ai pj carry ≤ 2 ^ (2 * L) - 1 ∧ limbTerm r ai pj carry / 2 ^ L < 2 ^ L

/-- 41_wide_arith.md section 2 (R124, which the spec derives): in the limb form XorByte changes limb 0 alone, and the limbs
stay below 2^L. -/
def Obligations.LimbXorEqualsXorByte : Prop :=
  ∀ (L n a : Nat) (b : Byte), 8 ≤ L → 0 < n → a < 2 ^ (L * n) →
    limbsValue L (xorLimbs (toLimbs L n a) b) = xorByte (L * n) a b ∧
    (xorLimbs (toLimbs L n a) b).tail = (toLimbs L n a).tail ∧ ∀ x ∈ xorLimbs (toLimbs L n a) b, x < 2 ^ L

/-- 40_constants_rom.md section 3 (values the spec takes from general knowledge, log entry 9): in the default table
every prime is odd and of the form 2^k + 2^8 + b, every basis is non-zero, and neither is larger than 2^W − 1. -/
def Obligations.DefaultConstants : Prop :=
  (∀ (ws : Nibble) (c : Consts), defaultRom.const ws = some c →
    c.prime % 2 = 1 ∧ c.basis ≠ 0 ∧ c.prime < 2 ^ c.bits ∧ c.basis < 2 ^ c.bits) ∧
  (∀ (ws : Nibble) (c : Consts), defaultRom.const ws = some c →
    (c.bits, c.prime) ∈
      [(32, 2 ^ 24 + 2 ^ 8 + 0x93), (64, 2 ^ 40 + 2 ^ 8 + 0xB3), (128, 2 ^ 88 + 2 ^ 8 + 0x3B),
        (256, 2 ^ 168 + 2 ^ 8 + 0x63), (512, 2 ^ 344 + 2 ^ 8 + 0x57), (1024, 2 ^ 680 + 2 ^ 8 + 0x8D)]) ∧
  rom128.basis.getLsbD 127 = false ∧ rom1024.basis.getLsbD 950 = true ∧ ∀ j, 950 < j → rom1024.basis.getLsbD j = false

-- The digest

/-- 43_digest_readout.md section 3 (its R175, which the spec derives): from any state whatever, `hash` answers the
digest F(v, ws, bytes) of a supported variant and width, and the setup error of any other; F is the seed, then one
step for each byte. The spec gives F for the variants 0 to 2 alone; that `fnvDigest` follows FOLD's else branch for the
others is the model's reading (log entry 12). -/
def Obligations.HashComputesTheDigest : Prop :=
  (∀ (s : State) (v ws : Nibble) (bytes : List Byte) (c : Consts), s.rom.const ws = some c → v.toNat ≤ 2 →
    hostHash s v ws bytes = some (.digest (fnvDigest c v bytes))) ∧
  (∀ (s : State) (v ws : Nibble) (bytes : List Byte), s.rom.const ws = none →
    hostHash s v ws bytes = some (.error ErrCode.unsupportedWidth.code)) ∧
  (∀ (s : State) (v ws : Nibble) (bytes : List Byte) (c : Consts), s.rom.const ws = some c → 3 ≤ v.toNat →
    hostHash s v ws bytes = some (.error ErrCode.unsupportedVariant.code)) ∧
  (∀ (c : Consts) (v : Nibble), fnvDigest c v [] = if v.toNat = 0 then 0 else c.basis) ∧
  ∀ (c : Consts) (v : Nibble) (bytes : List Byte) (b : Byte), fnvDigest c v (bytes ++ [b]) =
    if v.toNat ≤ 1 then step1 c (fnvDigest c v bytes) b else step1a c (fnvDigest c v bytes) b

/-- 43_digest_readout.md section 3 through the machine's own step: with the accesses of a hash held at the port, as many
steps serve them all, and the host gets STATUS = DONE and the words of F(v, ws, bytes). -/
def Obligations.HashRunsThroughSteps : Prop :=
  ∀ (s : State) (v ws : Nibble) (bytes : List Byte) (c : Consts) (rest : List Access),
    s.resetReq = false → s.rom.const ws = some c → v.toNat ≤ 2 →
    s.offered = hashAccesses v ws bytes (c.bits / 32) ++ rest →
    ∃ t words, Host.Core.run core (bytes.length + 3 + c.bits / 32) s = .next t ∧
      t.state = .done ∧ t.acc = some (fnvDigest c v bytes) ∧ t.offered = rest ∧
      t.replies = s.replies ++ (some (status t) :: words.map some) ∧
      words.length = c.bits / 32 ∧ digestOfWords words = fnvDigest c v bytes

/-- 43_digest_readout.md section 3 (its R176, which the spec derives): hash of the empty input returns the seed, for
every supported variant and width. -/
def Obligations.HashOfEmptyInputIsTheSeed : Prop :=
  ∀ (s : State) (v ws : Nibble) (c : Consts), s.rom.const ws = some c → v.toNat ≤ 2 →
    hostHash s v ws [] = some (.digest (if v.toNat = 0 then 0 else c.basis))

/-- 43_digest_readout.md section 3 (its R177, which the spec derives): every digest is less than 2^W. -/
def Obligations.DigestIsBelowWidth : Prop :=
  ∀ (s : State) (v ws : Nibble) (bytes : List Byte) (d : Nat), hostHash s v ws bytes = some (.digest d) →
    ∃ c, s.rom.const ws = some c ∧ d < 2 ^ c.bits

/-- 43_digest_readout.md section 3 (its R178, which the spec derives): hash is a function of (v, ws, input) alone,
from any STATE the engine was in. -/
def Obligations.HashIsDeterministic : Prop :=
  ∀ (s u : State) (v ws : Nibble) (bytes : List Byte), s.rom = u.rom → hostHash s v ws bytes = hostHash u v ws bytes

/-- 40_constants_rom.md section 3 (R111's commands, which the spec derives): a host observes both members of a ROM
entry through commands. -/
def Obligations.HostObservesRomThroughCommands : Prop :=
  ∀ (s : State) (ws : Nibble) (c : Consts), s.rom.const ws = some c →
    hostHash s 1 ws [] = some (.digest c.basis) ∧ hostHash s 0 ws [0x01, 0x00] = some (.digest c.prime)

/-- 60_exceptions.md section 2: after an error no part of a digest is readable. -/
def Obligations.NoDigestAfterAnError : Prop :=
  ∀ (w : Word) (s t : State), s.Inv → accept (Access.command w) s = .next t → t.state = .error →
    t.acc = none ∧ ∀ k, digestWord t k = none

/-- R173: W/4 digits of the chosen case, the first for the most significant 4 bits, none stripped. -/
def Obligations.FormatDigits : Prop :=
  (List.range 16).map (hexDigit .lower) =
    ['0', '1', '2', '3', '4', '5', '6', '7', '8', '9', 'a', 'b', 'c', 'd', 'e', 'f'] ∧
  (List.range 16).map (hexDigit .upper) =
    ['0', '1', '2', '3', '4', '5', '6', '7', '8', '9', 'A', 'B', 'C', 'D', 'E', 'F'] ∧
  ∀ (hc : HexCase) (W d : Nat), W % 4 = 0 →
    (formatDigest hc W d).length = W / 4 ∧
    ∀ i, i < W / 4 → (formatDigest hc W d)[i]? = some (hexDigit hc (d / 2 ^ (W - 4 - 4 * i) % 16))

-- The platform

/-- R62: commands to one instance never affect the state or the reads of another: neither a step, nor an access, nor a
reset. -/
def Obligations.InstancesAreIndependent : Prop :=
  (∀ (k j : Nat) (ps qs : List Placed), stepAt k ps = .next qs → j ≠ k → qs[j]? = ps[j]?) ∧
  (∀ (k j : Nat) (ps : List Placed), j ≠ k → (assertResetAt k ps)[j]? = ps[j]?) ∧
  ∀ (addr : Nat) (size : AccessSize) (op : AccessOp) (ps qs : List Placed) (j : Nat) (p : Placed),
    offerAt addr size op ps = some qs → ps[j]? = some p → ¬(p.base ≤ addr ∧ addr ≤ p.base + 0xFF) → qs[j]? = ps[j]?

-- The assembler

/-- 30_encoding.md section 5 (R81's operand ranges): a line is an assembly error, and nothing is written, exactly when
an operand is not one R81 allows or a FOLDB has no byte; and what a line of commands writes decodes. That a FOLDB needs a
byte, and that one error in a program leaves the whole program unwritten, are the model's choices (log entry 16). -/
def Obligations.AssemblyErrorIffIllFormed : Prop :=
  (∀ l : AsmLine, l.words = none ↔ l.wellFormed = false) ∧
  (∀ ls : List AsmLine, assembleLines ls = none ↔ ∃ l ∈ ls, l.wellFormed = false) ∧
  ∀ (l : AsmLine) (ws : List Word), l.words = some ws → (∀ n, l ≠ .rawWord n) → ∀ w ∈ ws, ∃ i, decode w = .ok i

/-- 30_encoding.md section 5 (R82; the bytes of characters beyond ASCII are log entry 17): each pseudo-instruction
expands into the commands given, in the order given, with one assembly error among them leaving nothing written (log
entry 16). -/
def Obligations.PseudoInstructionsExpand : Prop :=
  (∀ bs : List ByteArg, bs ≠ [] → assembleLines [.foldb bs] = assembleLines (bs.map .fold)) ∧
  (∀ text : List Char, assembleLines [.folds text] =
    assembleLines ((utf8 text).map fun b => .fold (.number b.toNat))) ∧
  ∀ (v : VariantArg) (w : WidthArg) (text : List Char),
    assembleLines [.hash v w text] = assembleLines [.init v w, .folds text, .finish]

/-- 30_encoding.md section 5 (R81, and the lexical choices of log entry 16): outside quotes, a comment is ignored and
letters are case-insensitive. -/
def Obligations.CommentsAndCaseAreIgnored : Prop :=
  (∀ cs rest : List Char, (∀ c ∈ cs, c ≠ '"' ∧ c ≠ '\'') → parseLine (cs ++ ';' :: rest) = parseLine cs) ∧
  ∀ cs : List Char, (∀ c ∈ cs, c ≠ '"' ∧ c ≠ '\'') → parseLine (cs.map Char.toUpper) = parseLine cs
end

