-- ==== Sys2Proof/Laws/Decode.lean ====
section
/-! SUPPORT. Laws/Decode.lean: the fields of an encoded word, and the inversion of `decode` (30_encoding.md R80). -/

namespace Sys2Proof

/-- A word is its five fields (R71). -/
theorem eq_of_fields {w u : Word} (h0 : opField w = opField u) (h1 : varField w = varField u)
    (h2 : wselField w = wselField u) (h3 : rsvField w = rsvField u) (h4 : byteField w = byteField u) : w = u := by
  apply BitVec.eq_of_getLsbD_eq
  intro i hi
  have e0 := congrArg (fun x => x.getLsbD (i - 28)) h0
  have e1 := congrArg (fun x => x.getLsbD (i - 24)) h1
  have e2 := congrArg (fun x => x.getLsbD (i - 20)) h2
  have e3 := congrArg (fun x => x.getLsbD (i - 8)) h3
  have e4 := congrArg (fun x => x.getLsbD i) h4
  simp only [opField, varField, wselField, rsvField, byteField, BitVec.getLsbD_extractLsb'] at e0 e1 e2 e3 e4
  by_cases c0 : 28 ≤ i
  · have : 28 + (i - 28) = i := by omega
    simpa [this, show i - 28 < 4 by omega] using e0
  by_cases c1 : 24 ≤ i
  · have : 24 + (i - 24) = i := by omega
    simpa [this, show i - 24 < 4 by omega] using e1
  by_cases c2 : 20 ≤ i
  · have : 20 + (i - 20) = i := by omega
    simpa [this, show i - 20 < 4 by omega] using e2
  by_cases c3 : 8 ≤ i
  · have : 8 + (i - 8) = i := by omega
    simpa [this, show i - 8 < 12 by omega] using e3
  · simpa [show i < 8 by omega] using e4

/-- What `decode` has seen where it accepts a word: OP, and every must-be-zero bit at 0 (R80). -/
theorem decode_ok_cases {w : Word} {i : Instr} (h : decode w = .ok i) :
    (opField w = 0 ∧ w.extractLsb' 0 28 = 0 ∧ i = .nop) ∨
    (opField w = 1 ∧ w.extractLsb' 0 20 = 0 ∧ i = .init (varField w) (wselField w)) ∨
    (opField w = 2 ∧ w.extractLsb' 8 20 = 0 ∧ i = .fold (byteField w)) ∨
    (opField w = 3 ∧ w.extractLsb' 0 28 = 0 ∧ i = .finish) ∨
    (opField w = 4 ∧ w.extractLsb' 0 28 = 0 ∧ i = .clear) := by
  unfold decode at h
  repeat' split at h
  all_goals first
    | (cases h; simp_all)
    | cases h

end Sys2Proof
end

