-- ==== Sys2Proof/Laws/State.lean ====
section
/-! SUPPORT. Laws/State.lean: what each named update of the state leaves in each field, so that no proof unfolds a record
update. -/

namespace Sys2Proof.Machine

@[simp] theorem failInit_state (e : ErrCode) (v ws : Nibble) (s : State) : (failInit e v ws s).state = .error := rfl
@[simp] theorem failInit_err (e : ErrCode) (v ws : Nibble) (s : State) : (failInit e v ws s).err = e := rfl
@[simp] theorem failInit_var (e : ErrCode) (v ws : Nibble) (s : State) : (failInit e v ws s).var = v := rfl
@[simp] theorem failInit_wsel (e : ErrCode) (v ws : Nibble) (s : State) : (failInit e v ws s).wsel = ws := rfl
@[simp] theorem failInit_acc (e : ErrCode) (v ws : Nibble) (s : State) : (failInit e v ws s).acc = none := rfl
@[simp] theorem failInit_rom (e : ErrCode) (v ws : Nibble) (s : State) : (failInit e v ws s).rom = s.rom := rfl
@[simp] theorem failInit_resetReq (e : ErrCode) (v ws : Nibble) (s : State) : (failInit e v ws s).resetReq = s.resetReq := rfl
@[simp] theorem failInit_offered (e : ErrCode) (v ws : Nibble) (s : State) : (failInit e v ws s).offered = s.offered := rfl
@[simp] theorem failInit_replies (e : ErrCode) (v ws : Nibble) (s : State) : (failInit e v ws s).replies = s.replies := rfl

@[simp] theorem startComputation_state (v ws : Nibble) (a : Nat) (s : State) : (startComputation v ws a s).state = .seeded := rfl
@[simp] theorem startComputation_err (v ws : Nibble) (a : Nat) (s : State) : (startComputation v ws a s).err = .none := rfl
@[simp] theorem startComputation_var (v ws : Nibble) (a : Nat) (s : State) : (startComputation v ws a s).var = v := rfl
@[simp] theorem startComputation_wsel (v ws : Nibble) (a : Nat) (s : State) : (startComputation v ws a s).wsel = ws := rfl
@[simp] theorem startComputation_acc (v ws : Nibble) (a : Nat) (s : State) : (startComputation v ws a s).acc = some a := rfl
@[simp] theorem startComputation_rom (v ws : Nibble) (a : Nat) (s : State) : (startComputation v ws a s).rom = s.rom := rfl
@[simp] theorem startComputation_resetReq (v ws : Nibble) (a : Nat) (s : State) : (startComputation v ws a s).resetReq = s.resetReq := rfl
@[simp] theorem startComputation_offered (v ws : Nibble) (a : Nat) (s : State) : (startComputation v ws a s).offered = s.offered := rfl
@[simp] theorem startComputation_replies (v ws : Nibble) (a : Nat) (s : State) : (startComputation v ws a s).replies = s.replies := rfl

@[simp] theorem storeFold_state (a : Nat) (s : State) : (storeFold a s).state = .folding := rfl
@[simp] theorem storeFold_err (a : Nat) (s : State) : (storeFold a s).err = s.err := rfl
@[simp] theorem storeFold_var (a : Nat) (s : State) : (storeFold a s).var = s.var := rfl
@[simp] theorem storeFold_wsel (a : Nat) (s : State) : (storeFold a s).wsel = s.wsel := rfl
@[simp] theorem storeFold_acc (a : Nat) (s : State) : (storeFold a s).acc = some a := rfl
@[simp] theorem storeFold_rom (a : Nat) (s : State) : (storeFold a s).rom = s.rom := rfl
@[simp] theorem storeFold_resetReq (a : Nat) (s : State) : (storeFold a s).resetReq = s.resetReq := rfl
@[simp] theorem storeFold_offered (a : Nat) (s : State) : (storeFold a s).offered = s.offered := rfl
@[simp] theorem storeFold_replies (a : Nat) (s : State) : (storeFold a s).replies = s.replies := rfl

@[simp] theorem markDone_state (s : State) : (markDone s).state = .done := rfl
@[simp] theorem markDone_err (s : State) : (markDone s).err = s.err := rfl
@[simp] theorem markDone_var (s : State) : (markDone s).var = s.var := rfl
@[simp] theorem markDone_wsel (s : State) : (markDone s).wsel = s.wsel := rfl
@[simp] theorem markDone_acc (s : State) : (markDone s).acc = s.acc := rfl
@[simp] theorem markDone_rom (s : State) : (markDone s).rom = s.rom := rfl
@[simp] theorem markDone_resetReq (s : State) : (markDone s).resetReq = s.resetReq := rfl
@[simp] theorem markDone_offered (s : State) : (markDone s).offered = s.offered := rfl
@[simp] theorem markDone_replies (s : State) : (markDone s).replies = s.replies := rfl

@[simp] theorem clearRegisters_state (s : State) : (clearRegisters s).state = .idle := rfl
@[simp] theorem clearRegisters_err (s : State) : (clearRegisters s).err = .none := rfl
@[simp] theorem clearRegisters_var (s : State) : (clearRegisters s).var = 0 := rfl
@[simp] theorem clearRegisters_wsel (s : State) : (clearRegisters s).wsel = 0 := rfl
@[simp] theorem clearRegisters_acc (s : State) : (clearRegisters s).acc = none := rfl
@[simp] theorem clearRegisters_rom (s : State) : (clearRegisters s).rom = s.rom := rfl
@[simp] theorem clearRegisters_resetReq (s : State) : (clearRegisters s).resetReq = s.resetReq := rfl
@[simp] theorem clearRegisters_offered (s : State) : (clearRegisters s).offered = s.offered := rfl
@[simp] theorem clearRegisters_replies (s : State) : (clearRegisters s).replies = s.replies := rfl

@[simp] theorem addReply_state (r : Option Word) (s : State) : (addReply r s).state = s.state := rfl
@[simp] theorem addReply_err (r : Option Word) (s : State) : (addReply r s).err = s.err := rfl
@[simp] theorem addReply_var (r : Option Word) (s : State) : (addReply r s).var = s.var := rfl
@[simp] theorem addReply_wsel (r : Option Word) (s : State) : (addReply r s).wsel = s.wsel := rfl
@[simp] theorem addReply_acc (r : Option Word) (s : State) : (addReply r s).acc = s.acc := rfl
@[simp] theorem addReply_rom (r : Option Word) (s : State) : (addReply r s).rom = s.rom := rfl
@[simp] theorem addReply_resetReq (r : Option Word) (s : State) : (addReply r s).resetReq = s.resetReq := rfl
@[simp] theorem addReply_offered (r : Option Word) (s : State) : (addReply r s).offered = s.offered := rfl
@[simp] theorem addReply_replies (r : Option Word) (s : State) : (addReply r s).replies = s.replies ++ [r] := rfl

@[simp] theorem takeReset_state (s : State) : (takeReset s).state = .idle := rfl
@[simp] theorem takeReset_err (s : State) : (takeReset s).err = .none := rfl
@[simp] theorem takeReset_var (s : State) : (takeReset s).var = 0 := rfl
@[simp] theorem takeReset_wsel (s : State) : (takeReset s).wsel = 0 := rfl
@[simp] theorem takeReset_acc (s : State) : (takeReset s).acc = none := rfl
@[simp] theorem takeReset_rom (s : State) : (takeReset s).rom = s.rom := rfl
@[simp] theorem takeReset_resetReq (s : State) : (takeReset s).resetReq = false := rfl
@[simp] theorem takeReset_offered (s : State) : (takeReset s).offered = s.offered.filter fun a => !a.isCommand := rfl
@[simp] theorem takeReset_replies (s : State) : (takeReset s).replies = s.replies := rfl

@[simp] theorem signal_var (e : ErrCode) (s : State) : (signal e s).var = s.var := by
  unfold signal; split <;> rfl
@[simp] theorem signal_wsel (e : ErrCode) (s : State) : (signal e s).wsel = s.wsel := by
  unfold signal; split <;> rfl
@[simp] theorem signal_rom (e : ErrCode) (s : State) : (signal e s).rom = s.rom := by
  unfold signal; split <;> rfl
@[simp] theorem signal_resetReq (e : ErrCode) (s : State) : (signal e s).resetReq = s.resetReq := by
  unfold signal; split <;> rfl
@[simp] theorem signal_offered (e : ErrCode) (s : State) : (signal e s).offered = s.offered := by
  unfold signal; split <;> rfl
@[simp] theorem signal_replies (e : ErrCode) (s : State) : (signal e s).replies = s.replies := by
  unfold signal; split <;> rfl

@[simp] theorem signal_state (e : ErrCode) (s : State) : (signal e s).state = .error := by
  unfold signal; split <;> simp_all

/-- The first error's code and ⊥ stay; a new error writes its own (R203). -/
theorem signal_of_not_error {e : ErrCode} {s : State} (h : s.state ≠ .error) :
    signal e s = { s with state := .error, err := e, acc := none } := if_neg h

theorem signal_of_error {e : ErrCode} {s : State} (h : s.state = .error) : signal e s = s := if_pos h

theorem acceptsInput_iff (q : SeqState) : q.acceptsInput = true ↔ q = .seeded ∨ q = .folding := by
  cases q <;> simp [SeqState.acceptsInput]

theorem holdsValue_iff (q : SeqState) : q.holdsValue = true ↔ q = .seeded ∨ q = .folding ∨ q = .done := by
  cases q <;> simp [SeqState.holdsValue]

/-- SEEDED and FOLDING hold a value (R26). -/
theorem holdsValue_of_acceptsInput {q : SeqState} (h : q.acceptsInput = true) : q.holdsValue = true := by
  cases q <;> simp_all [SeqState.acceptsInput, SeqState.holdsValue]

theorem State.SameEngine.refl (s : State) : s.SameEngine s := ⟨rfl, rfl, rfl, rfl, rfl, rfl⟩

end Sys2Proof.Machine
end

