-- ==== Sys2Proof/Laws/Ops.lean ====
section
/-! SUPPORT. Laws/Ops.lean: one lemma for each shared operation that says what it can do, for the provers to cite: the
constant lookup, the datapath primitives, the seed and the fold step, and the inversion of each command. -/

namespace Sys2Proof

theorem Width.bits_ge (w : Width) : 32 ≤ w.bits := by cases w <;> decide

theorem Width.bits_dvd (w : Width) : 32 ∣ w.bits := by cases w <;> decide

/-- The digest words of every width fit DIGEST[0] to DIGEST[31] (R53, R75). -/
theorem Width.words_le (w : Width) : w.bits / 32 ≤ 32 := by cases w <;> decide

/-- Both members of a pair fit its width (R100). -/
theorem ConstPair.consts_fit {w : Nat} (p : ConstPair w) :
    p.consts.bits = w ∧ p.consts.prime < 2 ^ p.consts.bits ∧ p.consts.basis < 2 ^ p.consts.bits :=
  ⟨rfl, p.prime.isLt, p.basis.isLt⟩

theorem Rom.entry_fit {r : Rom} {w : Width} {c : Consts} (h : r.entry w = some c) :
    c.bits = w.bits ∧ c.prime < 2 ^ c.bits ∧ c.basis < 2 ^ c.bits := by
  cases w <;> simp only [Rom.entry, Option.map_eq_some_iff] at h <;> obtain ⟨p, -, rfl⟩ := h <;>
    exact p.consts_fit

/-- An entry of a build's ROM is there exactly when the build supports its width (R6). -/
theorem Build.rom_entry_eq_none_iff (b : Build) (w : Width) : b.rom.entry w = none ↔ w ∉ b.supported := by
  cases w <;> simp [Build.rom, Rom.entry]

/-- Every ROM is some build's, so a statement over all states is one over all builds. -/
theorem Rom.exists_build (r : Rom) : ∃ b : Build, b.rom = r := by
  have keep {w : Nat} (p : Option (ConstPair w)) : (if p.isSome then some (p.getD ⟨0, 0⟩) else none) = p := by
    cases p <;> rfl
  have mem (w : Width) : (Build.default.supported.filter fun w => (r.entry w).isSome).contains w = (r.entry w).isSome := by
    rw [Bool.eq_iff_iff]
    cases w <;> simp [Build.default]
  refine ⟨⟨Build.default.supported.filter fun w => (r.entry w).isSome, r.w32.getD ⟨0, 0⟩, r.w64.getD ⟨0, 0⟩,
    r.w128.getD ⟨0, 0⟩, r.w256.getD ⟨0, 0⟩, r.w512.getD ⟨0, 0⟩, r.w1024.getD ⟨0, 0⟩⟩, ?_⟩
  simp only [Build.rom, mem]
  simp only [Rom.entry, Option.isSome_map, keep]

end Sys2Proof

namespace Sys2Proof.Machine

/-- What a successful lookup gives: a width of R5, and a prime and a basis that fit it (R100). -/
theorem const_spec {r : Rom} {ws : Nibble} {c : Consts} (h : r.const ws = some c) :
    ∃ w, Width.ofCode ws = some w ∧ r.entry w = some c ∧ c.bits = w.bits ∧ c.prime < 2 ^ c.bits ∧
      c.basis < 2 ^ c.bits := by
  unfold Rom.const at h
  split at h
  · cases h
  · rename_i w hw
    exact ⟨w, hw, h, Rom.entry_fit h⟩

theorem const_bits_ge {r : Rom} {ws : Nibble} {c : Consts} (h : r.const ws = some c) : 32 ≤ c.bits := by
  obtain ⟨w, -, -, hb, -⟩ := const_spec h
  exact hb ▸ w.bits_ge

/-- The zero-extension of XorByte keeps the byte's value, since W ≥ 8 (R123). -/
theorem xorByte_eq {W : Nat} (hW : 8 ≤ W) (a : Nat) (b : Byte) : xorByte W a b = a ^^^ b.toNat := by
  have hb : b.toNat < 2 ^ W := b.isLt.trans_le (Nat.pow_le_pow_right (by decide) hW)
  simp [xorByte, Nat.mod_eq_of_lt hb]

theorem mulW_lt (W a p : Nat) : mulW W a p < 2 ^ W := Nat.mod_lt _ (Nat.two_pow_pos W)

theorem xorByte_lt {W a : Nat} (b : Byte) (ha : a < 2 ^ W) : xorByte W a b < 2 ^ W :=
  Nat.xor_lt_two_pow ha (b.setWidth W).isLt

/-- A fold step of either order stays below 2^W (R27). -/
theorem foldStep_lt (c : Consts) (v : Nibble) {a : Nat} (b : Byte) : foldStep c v a b < 2 ^ c.bits := by
  unfold foldStep step1 step1a
  split
  · exact xorByte_lt b (mulW_lt _ _ _)
  · exact mulW_lt _ _ _

theorem seed_lt {r : Rom} {ws : Nibble} {c : Consts} (h : r.const ws = some c) (v : Nibble) : seed c v < 2 ^ c.bits := by
  obtain ⟨-, -, -, -, -, hb⟩ := const_spec h
  unfold seed
  split
  · exact Nat.two_pow_pos _
  · exact hb

/-- The three outcomes of INIT (R143). -/
theorem execInit_cases {v ws : Nibble} {s t : State} (h : execInit v ws s = .next t) :
    (s.rom.const ws = none ∧ t = failInit .unsupportedWidth v ws s) ∨
    (∃ c, s.rom.const ws = some c ∧ 3 ≤ v.toNat ∧ t = failInit .unsupportedVariant v ws s) ∨
    (∃ c, s.rom.const ws = some c ∧ v.toNat < 3 ∧ t = startComputation v ws (seed c v) s) := by
  unfold execInit at h
  split at h
  · rename_i hc
    cases h; exact .inl ⟨hc, rfl⟩
  · rename_i c hc
    split at h
    · cases h; exact .inr (.inl ⟨c, hc, ‹_›, rfl⟩)
    · cases h; exact .inr (.inr ⟨c, hc, by omega, rfl⟩)

/-- The two ways FOLD completes (R145). -/
theorem execFold_cases {b : Byte} {s t : State} (h : execFold b s = .next t) :
    (s.state.acceptsInput = true ∧ ∃ c a, s.rom.const s.wsel = some c ∧ s.acc = some a ∧
      t = storeFold (foldStep c s.var a b) s) ∨
    (s.state.acceptsInput = false ∧ t = signal .sequence s) := by
  unfold execFold at h
  split at h
  · rename_i hs
    split at h
    · rename_i c a hc ha
      cases h; exact .inl ⟨hs, c, a, hc, ha, rfl⟩
    · cases h
    · cases h
  · rename_i hs
    cases h; exact .inr ⟨by simpa using hs, rfl⟩

/-- The two ways FINISH completes (R148). -/
theorem execFinish_cases {s t : State} (h : execFinish s = .next t) :
    (s.state.acceptsInput = true ∧ t = markDone s) ∨ (s.state.acceptsInput = false ∧ t = signal .sequence s) := by
  unfold execFinish at h
  split at h
  · rename_i hs
    cases h; exact .inl ⟨hs, rfl⟩
  · rename_i hs
    cases h; exact .inr ⟨by simpa using hs, rfl⟩

end Sys2Proof.Machine
end

