-- ==== Sys2Proof/Laws/PerInstr.lean ====
section
/-! SUPPORT. Laws/PerInstr.lean: the statements made instruction by instruction. `EncodesInRow`: the instruction is well
formed and its encoding selects its row of the opcode table (30_encoding.md R73). -/

namespace Sys2Proof.Laws.EncodesInRow

/-- The instruction is well formed, its row stands in the table, and its encoding selects that row. -/
def Statement (i : Instr) : Prop :=
  i.wellFormed = true ∧ i.row ∈ opcodeTable ∧ i.row.selects (encode i) = true

theorem nop : Statement .nop := by unfold Statement; decide

theorem init (v ws : Nibble) : Statement (.init v ws) := by
  refine ⟨by simpa [Instr.wellFormed] using ⟨v.isLt, ws.isLt⟩, by simp [opcodeTable, Instr.row], ?_⟩
  revert v ws
  unfold OpcodeRow.selects
  decide

theorem fold (b : Byte) : Statement (.fold b) := by
  refine ⟨by simpa [Instr.wellFormed] using b.isLt, by simp [opcodeTable, Instr.row], ?_⟩
  revert b
  unfold OpcodeRow.selects
  decide

theorem finish : Statement .finish := by unfold Statement; decide

theorem clear : Statement .clear := by unfold Statement; decide

end Sys2Proof.Laws.EncodesInRow
end

