-- ==== Sys2Proof/Laws/Port.lean ====
section
/-! SUPPORT. Laws/Port.lean: what one access and one step can do (20_memory.md R55, 70_reset_and_hazards.md R240), and that
a command leaves the port alone. -/

namespace Sys2Proof.Machine

/-- A command never writes the ROM, the reset request, the held accesses or the replies. -/
theorem exec_port_frame {i : Instr} {s t : State} (h : exec i s = .next t) :
    t.rom = s.rom ∧ t.resetReq = s.resetReq ∧ t.offered = s.offered ∧ t.replies = s.replies := by
  cases i with
  | nop => cases h; simp
  | init v ws =>
    obtain ⟨-, rfl⟩ | ⟨c, -, -, rfl⟩ | ⟨c, -, -, rfl⟩ := execInit_cases h <;> simp
  | fold b =>
    obtain ⟨-, c, a, -, -, rfl⟩ | ⟨-, rfl⟩ := execFold_cases h <;> simp
  | finish =>
    obtain ⟨-, rfl⟩ | ⟨-, rfl⟩ := execFinish_cases h <;> simp
  | clear => cases h; simp

/-- A command word is an instruction's exec or an illegal word's error (R140, R150). -/
theorem acceptCommand_cases {w : Word} {s t : State} (h : acceptCommand w s = .next t) :
    (∃ i, decode w = .ok i ∧ exec i s = .next t) ∨
    (∃ why, decode w = .error why ∧ t = signal .illegalCommand s) := by
  unfold acceptCommand at h
  split at h
  · rename_i i hi
    exact .inl ⟨i, hi, h⟩
  · rename_i why hw
    cases h; exact .inr ⟨why, hw, rfl⟩

/-- Offset 0 is the only one at which CMD stands (R53). -/
theorem portOf_eq_cmd {off : BitVec 8} (h : portOf off = .cmd) : off = 0 := by
  apply BitVec.eq_of_toNat_eq
  unfold portOf at h
  split at h
  · assumption
  · repeat' split at h
    all_goals cases h

/-- What a completed access did: a command word, nothing, or a reply (R55). -/
theorem accept_cases {a : Access} {s t : State} (h : accept a s = .next t) :
    (∃ w, a = Access.command w ∧ acceptCommand w s = .next t) ∨
    (∃ w, a.op = .write w ∧ portOf a.offset ≠ .cmd ∧ t = s) ∨
    (a.op = .read ∧ t = addReply (readPort s (portOf a.offset)) s) := by
  unfold accept at h
  split at h
  · rename_i hi
    split at h
    · rename_i w hw hp
      refine .inl ⟨w, ?_, h⟩
      obtain ⟨off, size, op⟩ := a
      cases hw
      cases portOf_eq_cmd hp
      simp [Access.inInterface] at hi
      rw [hi]
      rfl
    · cases h; exact .inr (.inl ⟨_, ‹_›, by simp_all, rfl⟩)
    · cases h; exact .inr (.inl ⟨_, ‹_›, by simp_all, rfl⟩)
    · cases h; exact .inr (.inl ⟨_, ‹_›, by simp_all, rfl⟩)
    · cases h; exact .inr (.inr ⟨‹_›, rfl⟩)
  · cases h

/-- What a completed step did: a reset, nothing, or the oldest held access. -/
theorem step_cases {s t : State} (h : step s = .next t) :
    (s.resetReq = true ∧ t = takeReset s) ∨
    (s.resetReq = false ∧ s.offered = [] ∧ t = s) ∨
    (∃ a rest, s.resetReq = false ∧ s.offered = a :: rest ∧ accept a { s with offered := rest } = .next t) := by
  unfold step at h
  split at h
  · cases h; exact .inl ⟨‹_›, rfl⟩
  · split at h
    · cases h; exact .inr (.inl ⟨by simp_all, ‹_›, rfl⟩)
    · exact .inr (.inr ⟨_, _, by simp_all, ‹_›, h⟩)

/-- A command's write reaches the command port (R55). -/
theorem accept_command (w : Word) (s : State) : accept (Access.command w) s = acceptCommand w s := rfl

/-- An access of the interface that is no command completes and writes at most a reply (R55, R56). -/
theorem accept_of_not_command {a : Access} (s : State) (hi : a.inInterface = true) (hc : a.isCommand = false) :
    ∃ t, accept a s = .next t ∧ s.SameEngine t := by
  obtain ⟨off, size, op⟩ := a
  cases op with
  | read => exact ⟨addReply (readPort s (portOf off)) s, by simp [accept, hi], ⟨rfl, rfl, rfl, rfl, rfl, rfl⟩⟩
  | write w =>
    refine ⟨s, ?_, ⟨rfl, rfl, rfl, rfl, rfl, rfl⟩⟩
    cases hp : portOf off with
    | cmd =>
      cases portOf_eq_cmd hp
      have hn : Access.inInterface ⟨0, size, .write w⟩ = false := by simpa [Access.isCommand] using hc
      cases hi.symm.trans hn
    | status => simp [accept, hi, hp]
    | digest k => simp [accept, hi, hp]
    | reserved => simp [accept, hi, hp]

/-- What a port returns depends on the registers and the ROM alone (R58). -/
theorem readPort_congr {s u : State} (h : s.SameEngine u) (p : Port) : readPort s p = readPort u p := by
  cases p <;> simp [readPort, status, digestWord, h.state, h.err, h.var, h.wsel, h.acc, h.rom]

/-- Accesses one after the other, in two parts. -/
theorem runAccesses_append (as bs : List Access) (s : State) :
    runAccesses (as ++ bs) s = match runAccesses as s with
      | .next t => runAccesses bs t
      | .fault r => .fault r
      | .refused r => .refused r := by
  induction as generalizing s with
  | nil => rfl
  | cons a as ih =>
    simp only [List.cons_append, runAccesses]
    cases accept a s with
    | next t => exact ih t
    | fault r => rfl
    | refused r => rfl

end Sys2Proof.Machine
end

