-- ==== Sys2Proof/Tests/Slice0.lean ====
section
/-! SUPPORT. Tests/Slice0.lean: the smoke test of the well-formedness checks, the decoding of words written out by hand, and
small tests against 95_test_vectors.md (named by their ids) and 40_constants_rom.md R109. Every expected value comes from
spec/. The witnesses of the obligations' hypotheses stand in Tests/Witnesses.lean. -/

namespace Sys2Proof.Machine

-- Well-formedness: an ill-formed term for each check is refused, and a boundary one passes.

theorem test_wf_variant : (VariantArg.raw 16).wellFormed = false ∧ (VariantArg.raw 15).wellFormed = true := by decide

theorem test_wf_width : (WidthArg.raw 16).wellFormed = false ∧ (WidthArg.raw 15).wellFormed = true := by decide

theorem test_wf_byte_number : (ByteArg.number 256).wellFormed = false ∧ (ByteArg.number 255).wellFormed = true := by
  decide

theorem test_wf_byte_quoted_low : (ByteArg.quoted '\t').wellFormed = false ∧ (ByteArg.quoted ' ').wellFormed = true := by
  decide

theorem test_wf_byte_quoted_high :
    (ByteArg.quoted (Char.ofNat 0x7F)).wellFormed = false ∧ (ByteArg.quoted '~').wellFormed = true := by decide

theorem test_wf_line_operands :
    (AsmLine.init (.raw 16) (.raw 0)).wellFormed = false ∧ (AsmLine.init .fnv1 (.raw 16)).wellFormed = false ∧
    (AsmLine.fold (.number 256)).wellFormed = false ∧ (AsmLine.rawWord (2 ^ 32)).wellFormed = false ∧
    (AsmLine.foldb []).wellFormed = false ∧ (AsmLine.foldb [.number 0, .number 256]).wellFormed = false ∧
    (AsmLine.hash (.raw 16) (.raw 0) []).wellFormed = false ∧ (AsmLine.hash .fnv1 (.raw 16) []).wellFormed = false := by
  decide

/-- A command's operands have their field widths by type: the largest ones pass. -/
theorem test_wf_instr : (Instr.init 15 15).wellFormed = true ∧ (Instr.fold 255).wellFormed = true := by decide

/-- T9-5, T9-6: a narrow access and a misaligned one are outside the interface. -/
theorem test_wf_access :
    (Access.mk 0x00 .narrower (.write 0)).inInterface = false ∧ (Access.mk 0x06 .word .read).inInterface = false ∧
    (Access.mk 0x00 .wider .read).inInterface = false ∧ (Access.mk 0xFC .word .read).inInterface = true := by decide

-- Decoding, from words written out field by field (R71): OP | VAR | WSEL | RSV | BYTE.

/-- T7-1: 0000 0000 0000 000000000000 00000000. -/
theorem test_decode_nop : decode 0b00000000000000000000000000000000 = .ok .nop := by decide

/-- T5-3: 0001 0010 0101 000000000000 00000000 is INIT FNV1A, W1024. -/
theorem test_decode_init : decode 0b00010010010100000000000000000000 = .ok (.init 2 5) := by decide

/-- T7-6: both codes unsupported, and it still decodes. -/
theorem test_decode_init_raw : decode 0x1FF00000 = .ok (.init 15 15) := by decide

/-- 0010 0000 0000 000000000000 01100001 is FOLD 'a' (P1). -/
theorem test_decode_fold : decode 0b00100000000000000000000001100001 = .ok (.fold 0x61) := by decide

/-- T7-15. -/
theorem test_decode_finish : decode 0b00110000000000000000000000000000 = .ok .finish := by decide

/-- T7-17. -/
theorem test_decode_clear : decode 0b01000000000000000000000000000000 = .ok .clear := by decide

/-- T7-2, 3, 7 to 9, 12 to 14, 16, 18: a must-be-zero bit is set. -/
theorem test_decode_must_be_zero :
    ([0x00000001, 0x0F000000, 0x10000001, 0x10080000, 0x12000061, 0x20000100, 0x21000061, 0x20100061, 0x30000001,
      0x48000000].map decode).all (· == .error .mustBeZeroBitSet) = true := by decide

/-- T7-19 to T7-30: an unassigned opcode. -/
theorem test_decode_unassigned :
    ([0x50000000, 0x60000000, 0x70000000, 0x80000000, 0x90000000, 0xA0000000, 0xB0000000, 0xC0000000, 0xD0000000,
      0xE0000000, 0xF0000000, 0xFFFFFFFF].map decode).all (· == .error .unassignedOpcode) = true := by decide

/-- P1's words, by R80's encoder. -/
theorem test_encode :
    encode (.init 2 0) = 0x12000000 ∧ encode (.init 1 5) = 0x11500000 ∧ encode (.fold 0x61) = 0x20000061 ∧
    encode .finish = 0x30000000 ∧ encode .clear = 0x40000000 ∧ encode .nop = 0x00000000 := by decide

theorem test_decode_table_word :
    decodeTableWord 32 0x12500000 = some (.init 2 5) ∧ decodeTableWord 32 0x50000000 = none := by decide

-- The ROM

/-- The 32 bytes of R109's string. -/
def chongo : List Byte :=
  [0x63, 0x68, 0x6F, 0x6E, 0x67, 0x6F, 0x20, 0x3C, 0x4C, 0x61, 0x6E, 0x64, 0x6F, 0x6E, 0x20, 0x43, 0x75, 0x72, 0x74, 0x20,
    0x4E, 0x6F, 0x6C, 0x6C, 0x3E, 0x20, 0x2F, 0x5C, 0x2E, 0x2E, 0x2F, 0x5C]

/-- R109: every basis is the FNV-0 digest of the string, at its width and with its prime. -/
theorem test_rom_construction :
    ([0, 1, 2, 3, 4, 5].map fun ws => (defaultRom.const ws).map fun c => fnvDigest c 0 chongo == c.basis) =
      [some true, some true, some true, some true, some true, some true] := by decide +kernel

/-- R102 and R103 in decimal. -/
theorem test_rom_decimal :
    defaultRom.const 0 = some ⟨32, 16777619, 2166136261⟩ ∧
    defaultRom.const 1 = some ⟨64, 1099511628211, 14695981039346656037⟩ := by decide

-- The primitives

/-- T1-32.5 and T1-1024.5: MulW(basis, p). -/
theorem test_mulW :
    (defaultRom.const 0).map (fun c => mulW c.bits c.basis c.prime) = some 0x050C5D1F ∧
    (defaultRom.const 5).map (fun c => mulW c.bits c.basis c.prime) = some
      0x000000000000000098D7C19FBCE653DF221B9F717D3490FF95CA87FDAEF30D1B823372F85B24A372F50E380000000000000000000000000000000000000000000000000000000000000000000000000000000000000000000000000007685CD81A491DBCCC21AD06648D09A5C8CF5A78482054E91470B33DDE77252CAEF66597 := by
  decide +kernel

/-- T3-1, T3-5. -/
theorem test_xorByte :
    xorByte 32 0xFFFFFFFF 0xFF = 0xFFFFFF00 ∧ xorByte 64 0xCBF29CE484222325 0xFF = 0xCBF29CE4842223DA := by decide

/-- T2-8, T2-9, T2-14. -/
theorem test_steps :
    (defaultRom.const 0).map (fun c => (step1 c 0xFFFFFFFF 0xFF, step1a c 0xFFFFFFFF 0xFF)) =
      some (0xFEFFFE92, 0xFFFE6D00) ∧
    (defaultRom.const 1).map (fun c => step1a c 0xCBF29CE484222325 0xFF) = some 0xAF64724C8602EB6E := by decide

/-- T1-128.5 by the limb algorithm, with 32-bit limbs. -/
theorem test_limbs :
    mulLimbs 32 4 0x6C62272E07BB014262B821756295C58D 0x0000000001000000000000000000013B =
      0xD228CB69101A8CAF78912B704E4A147F := by decide

-- The commands, each one step from a small state

/-- What a test looks at: STATUS and ACC of the next state. -/
def seen (o : Host.Outcome State Fault Refusal) : Option (Word × Option Nat) :=
  match o with
  | .next t => some (status t, t.acc)
  | .fault _ => none
  | .refused _ => none

/-- A state with the given STATE, VAR, WSEL and ACC, no error. -/
def at_ (q : SeqState) (v ws : Nibble) (a : Option Nat) : State :=
  { State.reset with state := q, var := v, wsel := ws, acc := a }

/-- ERROR(e) with the given VAR. -/
def atError (e : ErrCode) (v : Nibble) : State := { State.reset with state := .error, err := e, var := v }

/-- T6-11 and T6-21. -/
theorem test_nop :
    seen (exec .nop (at_ .folding 1 0 (some 0x050C5D7E))) = some (0x00000102, some 0x050C5D7E) ∧
    seen (exec .nop (atError .sequence 1)) = some (0x00000134, none) := by decide

/-- T5-2, and T5-7: the width goes before the variant. -/
theorem test_init :
    seen (exec (.init 1 1) State.reset) = some (0x00001101, some 0xCBF29CE484222325) ∧
    seen (exec (.init 3 6) State.reset) = some (0x00006314, none) := by decide

/-- T5-9 with a reduced build, T5-14 replacing an error, T5-11 abandoning a computation. -/
theorem test_init_build_and_error :
    seen (exec (.init 1 2) (State.resetOf ⟨[.w32, .w64], defaultTable⟩)) = some (0x00002114, none) ∧
    seen (exec (.init 4 0) (atError .unsupportedWidth 2)) = some (0x00000424, none) ∧
    seen (exec (.init 0 1) (at_ .folding 2 0 (some 0xE40C292C))) = some (0x00001001, some 0) := by decide

/-- T6-7 (FNV-1) and P1 step 2 (FNV-1a). -/
theorem test_fold :
    seen (exec (.fold 0x62) (at_ .seeded 1 0 (some 0x811C9DC5))) = some (0x00000102, some 0x050C5D7D) ∧
    seen (exec (.fold 0x61) (at_ .seeded 2 0 (some 0x811C9DC5))) = some (0x00000202, some 0xE40C292C) := by decide

/-- T6-17: a FOLD in DONE destroys the digest. P3 step 2: sticky. -/
theorem test_fold_error :
    seen (exec (.fold 0x62) (at_ .done 1 0 (some 0x050C5D7E))) = some (0x00000134, none) ∧
    seen (exec (.fold 0x78) (atError .unsupportedWidth 2)) = some (0x00000214, none) := by decide

/-- T6-13 and T6-18. -/
theorem test_finish :
    seen (exec .finish (at_ .folding 1 0 (some 0x050C5D7E))) = some (0x00000103, some 0x050C5D7E) ∧
    seen (exec .finish (at_ .done 1 0 (some 0x050C5D7E))) = some (0x00000134, none) := by decide

/-- T6-14 and T6-24. -/
theorem test_clear :
    seen (exec .clear (at_ .folding 1 0 (some 0x050C5D7E))) = some (0x00000000, none) ∧
    seen (exec .clear (atError .sequence 1)) = some (0x00000000, none) := by decide

/-- T6-20, T6-25, and P5 step 3: an illegal word whose low byte looks like a FOLD byte folds nothing. -/
theorem test_illegal :
    seen (acceptCommand 0xF0000000 (at_ .done 1 0 (some 0x050C5D7E))) = some (0x00000144, none) ∧
    seen (acceptCommand 0xF0000000 (atError .sequence 1)) = some (0x00000134, none) ∧
    seen (acceptCommand 0x20000162 (at_ .folding 2 3 (some 0))) = some (0x00003244, none) := by decide

-- The register block

/-- The replies of the next state. -/
def replied (o : Host.Outcome State Fault Refusal) : Option (List (Option Word)) :=
  match o with
  | .next t => some t.replies
  | .fault _ => none
  | .refused _ => none

/-- T8-1: the four words of the 128-bit basis, and DIGEST[4] with no value. -/
theorem test_digest_words :
    ([0, 1, 2, 3, 4].map fun k => digestWord (at_ .done 2 2 (some 0x6C62272E07BB014262B821756295C58D)) k) =
      [some 0x6295C58D, some 0x62B82175, some 0x07BB0142, some 0x6C62272E, none] := by decide

/-- T8-4, T8-6, T9-4: no value outside DONE; CMD and reserved offsets read 0. -/
theorem test_reads :
    digestWord (at_ .folding 2 0 (some 0xE40C292C)) 0 = none ∧
    replied (accept ⟨0x00, .word, .read⟩ State.reset) = some [some 0] ∧
    replied (accept ⟨0x3C, .word, .read⟩ State.reset) = some [some 0] ∧
    replied (accept ⟨0x40, .word, .read⟩ (at_ .done 2 0 (some 0xE40C292C))) = some [some 0xE40C292C] ∧
    replied (accept ⟨0x04, .word, .read⟩ (at_ .seeded 2 0 (some 0x811C9DC5))) = some [some 0x00000201] := by decide

/-- T9-1, T9-2, T9-3: only a write to CMD is a command. -/
theorem test_writes :
    seen (accept ⟨0x00, .word, .write 0x12000000⟩ State.reset) = some (0x00000201, some 0x811C9DC5) ∧
    seen (accept ⟨0x04, .word, .write 0x12000000⟩ State.reset) = some (0x00000000, none) ∧
    seen (accept ⟨0x40, .word, .write 0x12000000⟩ State.reset) = some (0x00000000, none) := by decide

/-- T9-5, T9-6: refused. -/
theorem test_refused :
    accept ⟨0x00, .narrower, .write 0x12000000⟩ State.reset = .refused .accessOutsideInterface ∧
    accept ⟨0x06, .word, .read⟩ State.reset = .refused .accessOutsideInterface := ⟨rfl, rfl⟩

-- A step

/-- A step takes the held write of `INIT FNV1A, W32` (P1 step 1). -/
theorem test_step_fetch :
    seen (step (State.reset.withFetchWord 32 0x12000000)) = some (0x00000201, some 0x811C9DC5) := by decide

/-- R240: reset is taken before the command offered, which is not accepted. -/
theorem test_step_reset :
    (match step { (at_ .done 1 0 (some 5)).withFetchWord 32 0x12000000 with resetReq := true } with
      | .next t => decide (t = State.reset)
      | .fault _ => false
      | .refused _ => false) = true := by decide

-- The host

/-- T4-1024.2 FNV-1a "a", whose digest ends in 95AA, from a state in ERROR. -/
theorem test_hash_1024 :
    (match hostHash (atError .sequence 1) 2 5 [0x61] with
      | some (.digest d) => d % 2 ^ 256 == 0x1A491DBCCC21AD06648D09A5C8CF5A78482054E91470B33DDE77252CAEF695AA
      | some (.error _) => false
      | none => false) = true := by decide +kernel

/-- V3 through `hash`, and a setup error reported through the sticky ERR (R175). -/
theorem test_hash_small :
    hostHash State.reset 2 0 [0x61] = some (.digest 0xE40C292C) ∧ hostHash State.reset 2 6 [0x61] = some (.error 1) := by
  decide +kernel

/-- T10-1, T10-3. -/
theorem test_format :
    formatDigest .lower 32 0x00000061 = ['0', '0', '0', '0', '0', '0', '6', '1'] ∧
    formatDigest .upper 64 0xCBF29CE484222325 =
      ['C', 'B', 'F', '2', '9', 'C', 'E', '4', '8', '4', '2', '2', '2', '3', '2', '5'] ∧
    formatDigest .lower 32 0x811C9DC5 = ['8', '1', '1', 'c', '9', 'd', 'c', '5'] := by decide

/-- Two instances at 0x1000 and 0x2000: an access at 0x2004 goes to the second alone. -/
theorem test_platform_offer :
    (offerAt 0x2004 .word .read [⟨0x1000, State.reset⟩, ⟨0x2000, State.reset⟩]).map
        (fun ps => ps.map fun p => p.engine.offered) = some [[], [⟨0x04, .word, .read⟩]] ∧
    offerAt 0x1100 .word .read [⟨0x1000, State.reset⟩] = none := by decide

/-- P1 as text, in mixed case, with a comment. -/
theorem test_assemble_program :
    assembleText ["init FNV1a, W32 ; setup".toList, "  FOLD 'a'".toList, "".toList, "FINISH".toList] =
      some [0x12000000, 0x20000061, 0x30000000] := by decide +kernel

/-- R81, R82: raw codes, `.word`, the pseudo-instructions, and an assembly error that writes nothing. -/
theorem test_assemble_forms :
    assembleText ["INIT #3, #6".toList, ".word 0x20000162".toList, "FOLDB 0x01, 0, ';'".toList, "FOLDS \"ab\"".toList] =
      some [0x13600000, 0x20000162, 0x20000001, 0x20000000, 0x2000003B, 0x20000061, 0x20000062] ∧
    assembleText ["HASH FNV1, W64, \"\"".toList] = some [0x11100000, 0x30000000] ∧
    assembleText ["NOP".toList, "FOLD 256".toList] = none ∧ assembleText ["FOLD 1,".toList] = none := by decide +kernel

/-- R81: a hexadecimal byte has the form `0xHH`, and any other operand is an assembly error. -/
theorem test_assemble_hex_byte :
    assembleText ["FOLD 0x0F".toList, "FOLDB 0x61, 97".toList] = some [0x2000000F, 0x20000061, 0x20000061] ∧
    assembleText ["FOLD 0x1".toList] = none ∧ assembleText ["FOLD 0x0061".toList] = none ∧
    assembleText ["FOLDB 0x61, 0x".toList] = none := by decide +kernel

end Sys2Proof.Machine
end

