-- ==== Sys2Proof/Tests/Witnesses.lean ====
section
/-! SUPPORT. Tests/Witnesses.lean: for each obligation with hypotheses, a theorem that shows concrete states and operands
meeting them all, clause by clause, at the ends of their ranges. -/

namespace Sys2Proof.Machine

-- States of the register invariant R30, one for each STATE (T6's states and the boundary variants and widths)

/-- SEEDED, FNV-0, W32. -/
def seeded0 : State := at_ .seeded 0 0 (some 0)

/-- SEEDED, FNV-1a, W1024. -/
def seeded2 : State := at_ .seeded 2 5 (some rom1024.basis.toNat)

/-- FOLDING, FNV-1, W32, with the largest accumulator. -/
def folding1 : State := at_ .folding 1 0 (some 0xFFFFFFFF)

/-- DONE, FNV-1a, W32, with the digest of "a". -/
def done2 : State := at_ .done 2 0 (some 0xE40C292C)

/-- ERROR(SEQUENCE), with VAR and WSEL as the failed computation left them. -/
def errorSeq : State := { atError .sequence 1 with wsel := 5 }

/-- The build with the two narrowest widths only (T5-9). -/
def smallBuild : Build := ⟨[.w32, .w64], defaultTable⟩

theorem seeded0_inv : seeded0.Inv where
  idle := by decide
  active := fun _ => ⟨rfl, by decide, rom32.consts, 0, rfl, rfl, by decide⟩
  error := by decide
  seeded0 := fun _ _ => rfl
  seededBasis := by decide

theorem seeded2_inv : seeded2.Inv where
  idle := by decide
  active := fun _ => ⟨rfl, by decide, rom1024.consts, rom1024.basis.toNat, rfl, rfl, (ConstPair.consts_fit rom1024).2.2⟩
  error := by decide
  seeded0 := by decide
  seededBasis := fun _ _ => ⟨rom1024.consts, rfl, rfl⟩

theorem folding1_inv : folding1.Inv where
  idle := by decide
  active := fun _ => ⟨rfl, by decide, rom32.consts, 0xFFFFFFFF, rfl, rfl, by decide⟩
  error := by decide
  seeded0 := by decide
  seededBasis := by decide

theorem done2_inv : done2.Inv where
  idle := by decide
  active := fun _ => ⟨rfl, by decide, rom32.consts, 0xE40C292C, rfl, rfl, by decide⟩
  error := by decide
  seeded0 := by decide
  seededBasis := by decide

theorem errorSeq_inv : errorSeq.Inv where
  idle := by decide
  active := by rintro ⟨⟩
  error := by decide
  seeded0 := by decide
  seededBasis := by decide

theorem reset_inv : State.reset.Inv where
  idle := by decide
  active := by rintro ⟨⟩
  error := by decide
  seeded0 := by decide
  seededBasis := by decide

-- Encoding

theorem witness_AcceptedWordIsItsEncoding :
    decode 0x1FF00000 = .ok (.init 15 15) ∧ decode 0x200000FF = .ok (.fold 0xFF) ∧ decode 0x10000000 = .ok (.init 0 0) := by
  decide

theorem witness_WordSelectsRowIffItDecodesToIt :
    ∃ r ∈ opcodeTable, r.selects 0x1FF00000 = true ∧ opField 0x1FF00000 = opField r.pattern :=
  ⟨(Instr.init 0 0).row, by simp [opcodeTable], rfl, rfl⟩

/-- OP at 5 and at 15; one reserved bit at each end; an operand bit of another command. -/
theorem witness_IllegalWordSignalsIllegalCommand :
    ∀ w ∈ ([0x50000000, 0xF0000000, 0x10000100, 0x10080000, 0x01000000, 0x20800000, 0x30000001] : List Word),
      ∀ r ∈ opcodeTable, r.selects w = false := by
  intro w hw
  fin_cases hw <;> decide

theorem witness_WidthOfCode :
    Width.ofCode 0 = some .w32 ∧ Width.ofCode 5 = some .w1024 ∧ Width.ofCode 6 = none ∧ Width.ofCode 15 = none := by decide

-- Reset

/-- A reset request with a command and a read held. -/
def resetPending : State :=
  { folding1 with resetReq := true, offered := [Access.command 0x30000000, Access.readStatus] }

theorem witness_PlatformResetTakesRegistersBack :
    resetPending.resetReq = true ∧ ∃ a ∈ resetPending.offered, a.isCommand = true := by decide

theorem witness_ResetKeepsOtherHeldAccesses :
    resetPending.resetReq = true ∧ Access.readStatus.isCommand = false ∧
      resetPending.offered.count Access.readStatus = 1 := by decide

-- The invariant

/-- A command completes from a state of R30, and a step does. -/
theorem witness_StepKeepsRegisterInvariant :
    seeded2.Inv ∧ (∃ t, exec .finish seeded2 = .next t) ∧
      ∃ t, step { seeded2 with offered := [Access.command 0x30000000] } = .next t :=
  ⟨seeded2_inv, ⟨_, rfl⟩, ⟨_, rfl⟩⟩

theorem witness_StepKeepsRom : ∃ t, step resetPending = .next t := ⟨_, rfl⟩

-- The commands

/-- Two states with the same registers and ROM that differ in the port's fields. -/
theorem witness_CommandIsTotalAndConsultsRegistersOnly :
    decode 0x30000000 = .ok .finish ∧ seeded0.Inv ∧ seeded0.SameEngine { seeded0 with replies := [none] } ∧
      ∃ t, accept (Access.command 0x30000000) seeded0 = .next t :=
  ⟨by decide, seeded0_inv, ⟨rfl, rfl, rfl, rfl, rfl, rfl⟩, ⟨_, rfl⟩⟩

theorem witness_NopChangesNothing : opField 0x00000001 = 0 ∧ (0x00000001 : Word) ≠ 0x00000000 := by decide

/-- The lowest and the highest supported variant and width. -/
theorem witness_InitStartsAtTheSeed :
    (∃ c, State.reset.rom.const 0 = some c ∧ (0 : Nibble).toNat ≤ 2) ∧
      ∃ c, State.reset.rom.const 5 = some c ∧ (2 : Nibble).toNat ≤ 2 :=
  ⟨⟨_, rfl, by decide⟩, ⟨_, rfl, by decide⟩⟩

/-- The first code of no width, and a width the build leaves out. -/
theorem witness_InitUnsupportedWidth : State.reset.rom.const 6 = none ∧ (State.resetOf smallBuild).rom.const 2 = none ∧
      Width.ofCode 2 = some .w128 ∧ .w128 ∉ smallBuild.supported := ⟨rfl, rfl, rfl, by decide⟩

theorem witness_InitUnsupportedVariant :
    (∃ c, State.reset.rom.const 5 = some c ∧ 3 ≤ (3 : Nibble).toNat) ∧
      ∃ c, (State.resetOf smallBuild).rom.const 1 = some c ∧ 3 ≤ (15 : Nibble).toNat :=
  ⟨⟨_, rfl, by decide⟩, ⟨_, rfl, by decide⟩⟩

theorem witness_FoldMultipliesThenXors :
    (∃ c a, seeded0.state = .seeded ∧ seeded0.var = 0 ∧ seeded0.rom.const seeded0.wsel = some c ∧ seeded0.acc = some a) ∧
      ∃ c a, folding1.state = .folding ∧ folding1.var = 1 ∧ folding1.rom.const folding1.wsel = some c ∧
        folding1.acc = some a :=
  ⟨⟨_, _, rfl, rfl, rfl, rfl⟩, ⟨_, _, rfl, rfl, rfl, rfl⟩⟩

theorem witness_FoldXorsThenMultiplies :
    ∃ c a, seeded2.state = .seeded ∧ seeded2.var = 2 ∧ seeded2.rom.const seeded2.wsel = some c ∧ seeded2.acc = some a :=
  ⟨_, _, rfl, rfl, rfl, rfl⟩

theorem witness_FoldCompletesWhileFolding :
    seeded0.Inv ∧ seeded0.state = .seeded ∧ folding1.Inv ∧ folding1.state = .folding :=
  ⟨seeded0_inv, rfl, folding1_inv, rfl⟩

theorem witness_FinishMarksDone :
    seeded2.state = .seeded ∧ folding1.state = .folding ∧ State.reset.state = .idle ∧ done2.state = .done ∧
      errorSeq.state = .error := by decide

theorem witness_ClearReturnsToResetRegisters : ∃ t, exec .clear errorSeq = .next t := ⟨_, rfl⟩

theorem witness_SequenceErrorOutsideInput :
    (∃ b, Instr.fold 0 = .fold b) ∧ State.reset.state = .idle ∧ done2.state = .done ∧ errorSeq.state = .error :=
  ⟨⟨0, rfl⟩, rfl, rfl, rfl⟩

/-- FOLD where it raises SEQUENCE; an illegal word; a step from ERROR that stays there, and one that leaves by CLEAR. -/
theorem witness_FirstErrorIsSticky :
    (done2.state ≠ .seeded ∧ done2.state ≠ .folding ∧ done2.state ≠ .error) ∧
      decode 0x50000000 = .error .unassignedOpcode ∧ errorSeq.state = .error ∧
      (∃ t, step { errorSeq with offered := [Access.command 0x20000000] } = .next t) ∧
      ∃ t, step { errorSeq with offered := [Access.command 0x40000000] } = .next t :=
  ⟨by decide, by decide, rfl, ⟨_, rfl⟩, ⟨_, rfl⟩⟩

theorem witness_TransitionTableHolds : State.reset.Inv ∧ errorSeq.Inv ∧ done2.Inv := ⟨reset_inv, errorSeq_inv, done2_inv⟩

/-- Each clause: an illegal word, a bad width, a bad variant, and FINISH in SEEDED and in DONE. -/
theorem witness_ErrorChecksInOrder :
    (decode 0x20000162 = .error .mustBeZeroBitSet ∧ folding1.state ≠ .error ∧
      ∃ t, accept (Access.command 0x20000162) folding1 = .next t) ∧
    (State.reset.rom.const 6 = none ∧ ∃ t, exec (.init 3 6) State.reset = .next t) ∧
    (State.reset.rom.const 5 ≠ none ∧ 3 ≤ (3 : Nibble).toNat ∧ ∃ t, exec (.init 3 5) State.reset = .next t) ∧
    (∃ t, exec .finish seeded0 = .next t) ∧ done2.state ≠ .error ∧ ∃ t, exec .finish done2 = .next t :=
  ⟨⟨by decide, by decide, _, rfl⟩, ⟨rfl, _, rfl⟩, ⟨by rintro ⟨⟩, by decide, _, rfl⟩, ⟨_, rfl⟩, by decide, _, rfl⟩

theorem witness_CommandFrame :
    (∃ t, exec .nop errorSeq = .next t) ∧ (∃ t, exec .finish folding1 = .next t ∧ t.state ≠ .error) ∧
      ∃ t, exec (.fold 0) folding1 = .next t ∧ t.state ≠ .error :=
  ⟨⟨_, rfl⟩, ⟨_, rfl, by decide⟩, ⟨_, rfl, by decide⟩⟩

/-- A successful INIT, a failed one and a CLEAR. -/
theorem witness_OnlyInitAndClearWriteVarAndWsel :
    ∀ w ∈ ([0x12500000, 0x1FF00000, 0x40000000] : List Word),
      errorSeq.resetReq = false ∧ ∃ t, step { errorSeq with offered := [Access.command w] } = .next t := by
  simp only [List.mem_cons, List.not_mem_nil, or_false, forall_eq_or_imp, forall_eq]
  exact ⟨⟨rfl, _, rfl⟩, ⟨rfl, _, rfl⟩, ⟨rfl, _, rfl⟩⟩

theorem witness_InitStartsFresh :
    errorSeq.rom = done2.rom ∧ (2 : Nibble).toNat ≤ 2 ∧ ∃ c, errorSeq.rom.const 5 = some c := ⟨rfl, by decide, _, rfl⟩

theorem witness_FoldsRaiseNoError : seeded2.Inv ∧ seeded2.state = .seeded ∧ folding1.Inv ∧ folding1.state = .folding :=
  ⟨seeded2_inv, rfl, folding1_inv, rfl⟩

-- The register block

/-- Each clause of the map at the ends of its offsets, and the digest clause at its ends. -/
theorem witness_RegisterMap :
    (∀ off ∈ ([0x04, 0x08, 0x3C, 0x40, 0xBC, 0xC0, 0xFC] : List (BitVec 8)), off.toNat % 4 = 0 ∧ off ≠ 0x00) ∧
    (∀ off ∈ ([0x00, 0x08, 0x3C, 0xC0, 0xFC] : List (BitVec 8)), off.toNat % 4 = 0 ∧
      (off.toNat = 0x00 ∨ (0x08 ≤ off.toNat ∧ off.toNat ≤ 0x3C) ∨ 0xC0 ≤ off.toNat)) ∧
    (0 < 32 ∧ BitVec.ofNat 8 (0x40 + 4 * 0) = 0x40#8) ∧ 31 < 32 ∧ BitVec.ofNat 8 (0x40 + 4 * 31) = 0xBC#8 := by decide

theorem witness_AccessOutsideInterfaceIsRefused :
    ∃ a : Access, (a.size ≠ .word ∨ a.offset.toNat % 4 ≠ 0) ∧ State.reset.resetReq = false ∧
      ({ State.reset with offered := [a] } : State).offered = a :: [] :=
  ⟨⟨0x06, .word, .read⟩, by decide⟩

/-- The first and the last offset, with a read and an ignored write between. -/
theorem witness_ReadHasNoSideEffect :
    (0x00 : BitVec 8).toNat % 4 = 0 ∧ (0xFC : BitVec 8).toNat % 4 = 0 ∧
      ∀ a ∈ [Access.readDigest 31, ⟨0x04, .word, .write 0x40000000⟩], a.inInterface = true ∧ a.isCommand = false := by
  decide

/-- The last DIGEST word of the narrowest width. -/
theorem witness_DigestWordsAreTheDigest :
    done2.Inv ∧ done2.state = .done ∧ ∃ c a, done2.rom.const done2.wsel = some c ∧ done2.acc = some a ∧ 0 < c.bits / 32 :=
  ⟨done2_inv, rfl, _, _, rfl, rfl, by decide⟩

/-- The first k past the digest, and the last k of the map. -/
theorem witness_DigestOutsideDoneHasNoValue :
    folding1.state ≠ .done ∧
    (∃ c, done2.state = .done ∧ done2.rom.const done2.wsel = some c ∧ c.bits / 32 ≤ 1) ∧
    31 < 32 ∧ digestWord done2 31 = none :=
  ⟨by decide, ⟨_, rfl, rfl, by decide⟩, by decide, rfl⟩

-- Steps

theorem witness_StepRunsTheOldestAccess :
    (∃ rest, seeded0.resetReq = false ∧
      ({ seeded0 with offered := [Access.command 0x30000000, Access.readStatus] } : State).offered =
        Access.command 0x30000000 :: rest) ∧ decode 0x30000000 = .ok .finish ∧ State.reset.offered = [] :=
  ⟨⟨_, rfl, rfl⟩, by decide, rfl⟩

/-- A state of R30 whose port holds a command and a read, both inside the interface. -/
def busy : State := { seeded0 with offered := [Access.command 0x20000061, Access.readStatus] }

theorem witness_StepsTakeHeldAccessesInOrder : busy.resetReq = false ∧ busy.offered.length = 2 := by decide

theorem witness_EveryHeldAccessIsServed : busy.Inv ∧ busy.PortClean ∧ busy.resetReq = false :=
  ⟨⟨seeded0_inv.1, seeded0_inv.2, seeded0_inv.3, seeded0_inv.4, seeded0_inv.5⟩, by unfold State.PortClean; decide, rfl⟩

-- Arithmetic

theorem witness_XorByteChangesLowByteOnly : 8 ≤ 8 ∧ 8 ≤ 1024 := by decide

theorem witness_PrimitivesStayBelowWidth : 2 ^ 32 - 1 < 2 ^ 32 := by decide

/-- The hypotheses of each law, with the 32-bit prime. -/
theorem witness_CornerCaseLaws :
    0x01000193 < 2 ^ 32 ∧ 0 < 32 ∧ 0x01000193 % 2 = 1 ∧ 0 < 0x01000193 ∧ 2 ^ 32 - 1 < 2 ^ 32 := by decide

/-- The widest and narrowest limbs of R121, and limbs of all ones. -/
theorem witness_LimbMultiplierEqualsMulw : 0 < 8 ∧ 0 < 32 ∧ 2 ^ 32 - 1 < 2 ^ 32 := by decide

/-- One limb of the smallest width, and the 128-bit operand of all ones in four 32-bit limbs. -/
theorem witness_LimbXorEqualsXorByte :
    (8 ≤ 8 ∧ 0 < 1 ∧ 255 < 2 ^ (8 * 1)) ∧ 8 ≤ 32 ∧ 0 < 4 ∧ 2 ^ 128 - 1 < 2 ^ (32 * 4) := by decide

theorem witness_DefaultConstants : (∃ c, defaultRom.const 0 = some c) ∧ ∃ c, defaultRom.const 5 = some c :=
  ⟨⟨_, rfl⟩, ⟨_, rfl⟩⟩

-- The digest

theorem witness_HashComputesTheDigest :
    (∃ c, errorSeq.rom.const 5 = some c ∧ (2 : Nibble).toNat ≤ 2) ∧ errorSeq.rom.const 6 = none ∧
      ∃ c, errorSeq.rom.const 0 = some c ∧ 3 ≤ (3 : Nibble).toNat :=
  ⟨⟨_, rfl, by decide⟩, rfl, ⟨_, rfl, by decide⟩⟩

/-- One hash of one byte, with another access held behind it. -/
theorem witness_HashRunsThroughSteps :
    ∃ (s : State) (c : Consts), s.resetReq = false ∧ s.rom.const 0 = some c ∧ (2 : Nibble).toNat ≤ 2 ∧
      s.offered = hashAccesses 2 0 [0x61] (c.bits / 32) ++ [Access.readStatus] :=
  ⟨{ errorSeq with offered := hashAccesses 2 0 [0x61] 1 ++ [Access.readStatus] }, rom32.consts, rfl, rfl, by decide, rfl⟩

theorem witness_HashOfEmptyInputIsTheSeed :
    (∃ c, State.reset.rom.const 0 = some c ∧ (0 : Nibble).toNat ≤ 2) ∧
      ∃ c, State.reset.rom.const 5 = some c ∧ (2 : Nibble).toNat ≤ 2 :=
  ⟨⟨_, rfl, by decide⟩, ⟨_, rfl, by decide⟩⟩

theorem witness_DigestIsBelowWidth : hostHash State.reset 2 0 [0x61] = some (.digest 0xE40C292C) := by decide +kernel

theorem witness_HashIsDeterministic : State.reset.rom = errorSeq.rom := rfl

theorem witness_HostObservesRomThroughCommands : ∃ c, State.reset.rom.const 5 = some c := ⟨_, rfl⟩

theorem witness_NoDigestAfterAnError :
    done2.Inv ∧ ∃ t, accept (Access.command 0x20000062) done2 = .next t ∧ t.state = .error :=
  ⟨done2_inv, _, rfl, rfl⟩

theorem witness_FormatDigits : 32 % 4 = 0 ∧ 0 < 32 / 4 ∧ 1023 % 4 ≠ 0 ∧ 1024 % 4 = 0 ∧ 255 < 1024 / 4 := by decide

-- The platform

/-- Two instances whose blocks touch: the second is stepped; the last address of the first block is not in the second. -/
theorem witness_InstancesAreIndependent :
    ∃ ps : List Placed, (∃ qs, stepAt 1 ps = .next qs) ∧ (0 : Nat) ≠ 1 ∧ (∃ qs, offerAt 0x10FC .word .read ps = some qs) ∧
      ∃ p, ps[1]? = some p ∧ ¬(p.base ≤ 0x10FC ∧ 0x10FC ≤ p.base + 0xFF) :=
  ⟨[⟨0x1000, State.reset⟩, ⟨0x1100, seeded0⟩], ⟨_, rfl⟩, by decide, ⟨_, rfl⟩, _, rfl, by decide⟩

-- The assembler

theorem witness_AssemblyErrorIffIllFormed :
    (AsmLine.fold (.quoted '~')).words = some [0x2000007E] ∧ (∀ n, AsmLine.fold (.quoted '~') ≠ .rawWord n) ∧
      (AsmLine.fold (.number 256)).wellFormed = false :=
  ⟨by decide, by rintro n ⟨⟩, by decide⟩

theorem witness_PseudoInstructionsExpand : ([.number 0] : List ByteArg) ≠ [] := List.cons_ne_nil _ _

theorem witness_CommentsAndCaseAreIgnored :
    ∀ c ∈ ['f', 'o', 'l', 'd', ' ', '0', 'x', 'F', 'f'], c ≠ '"' ∧ c ≠ '\'' := by
  intro c hc
  fin_cases hc <;> decide

end Sys2Proof.Machine
end

section
/-! PROOFS. The state's family (10_state.md): the ROM is never written (R34), STATUS and its fields (R28), reads have no
side effect (R29). -/

namespace Sys2Proof.Machine

-- The ROM

/-- What a command word leaves unchanged, legal or not: the ROM, the reset request, the held accesses and the replies. -/
theorem acceptCommand_port_frame {w : Word} {s t : State} (h : acceptCommand w s = .next t) :
    t.rom = s.rom ∧ t.resetReq = s.resetReq ∧ t.offered = s.offered ∧ t.replies = s.replies := by
  obtain ⟨i, -, hexec⟩ | ⟨why, -, rfl⟩ := acceptCommand_cases h
  · exact exec_port_frame hexec
  · simp

/-- No host access writes the ROM (R34). -/
theorem accept_rom {a : Access} {s t : State} (h : accept a s = .next t) : t.rom = s.rom := by
  obtain ⟨w, -, hcmd⟩ | ⟨w, -, -, rfl⟩ | ⟨-, rfl⟩ := accept_cases h
  · obtain ⟨hrom, -⟩ := acceptCommand_port_frame hcmd
    exact hrom
  · rfl
  · rfl

/-- Settles O13, by the three things a step can do. -/
theorem stepKeepsRom : Obligations.StepKeepsRom := by
  intro s t h
  obtain ⟨-, rfl⟩ | ⟨-, -, rfl⟩ | ⟨a, rest, -, -, hacc⟩ := step_cases h
  · exact takeReset_rom s
  · rfl
  · exact accept_rom (s := { s with offered := rest }) hacc

-- Reads and ignored writes

/-- A read of the interface, at any port, completes with that port's reply (R55). -/
theorem accept_read {off : BitVec 8} (h : off.toNat % 4 = 0) (s : State) :
    accept ⟨off, .word, .read⟩ s = .next (addReply (readPort s (portOf off)) s) := by
  simp [accept, Access.inInterface, h]

/-- A write of the interface past CMD completes and changes nothing (R55). -/
theorem accept_write_of_ne_cmd {off : BitVec 8} (h : off.toNat % 4 = 0) (hne : off ≠ 0) (w : Word) (s : State) :
    accept ⟨off, .word, .write w⟩ s = .next s := by
  have hi : Access.inInterface ⟨off, .word, .write w⟩ = true := by simp [Access.inInterface, h]
  cases hp : portOf off with
  | cmd => exact absurd (portOf_eq_cmd hp) hne
  | status => simp [accept, hi, hp]
  | digest k => simp [accept, hi, hp]
  | reserved => simp [accept, hi, hp]

theorem State.SameEngine.trans {s t u : State} (h : s.SameEngine t) (k : t.SameEngine u) : s.SameEngine u :=
  ⟨h.state.trans k.state, h.err.trans k.err, h.var.trans k.var, h.wsel.trans k.wsel, h.acc.trans k.acc,
    h.rom.trans k.rom⟩

theorem sameEngine_addReply (r : Option Word) (s : State) : s.SameEngine (addReply r s) := ⟨rfl, rfl, rfl, rfl, rfl, rfl⟩

/-- Accesses of the interface among which there is no command complete, and the registers and the ROM stay (R29). -/
theorem runAccesses_of_not_command {as : List Access}
    (has : ∀ a ∈ as, a.inInterface = true ∧ a.isCommand = false) (s : State) :
    ∃ u, runAccesses as s = .next u ∧ s.SameEngine u := by
  induction as generalizing s with
  | nil => exact ⟨s, rfl, .refl s⟩
  | cons a as ih =>
    obtain ⟨⟨hi, hc⟩, has⟩ := List.forall_mem_cons.mp has
    obtain ⟨t, hat, hst⟩ := accept_of_not_command s hi hc
    obtain ⟨u, hu, htu⟩ := ih has t
    exact ⟨u, by simp only [runAccesses, hat, hu], hst.trans htu⟩

/-- Settles O35: neither the read nor the accesses between change the registers and the ROM, and a port's reply depends on
nothing else. -/
theorem readHasNoSideEffect : Obligations.ReadHasNoSideEffect := by
  intro s off between haligned hbetween
  have hst := sameEngine_addReply (readPort s (portOf off)) s
  obtain ⟨u, hu, htu⟩ := runAccesses_of_not_command hbetween (addReply (readPort s (portOf off)) s)
  have hsu := hst.trans htu
  refine ⟨_, u, _, readPort s (portOf off), accept_read haligned s, hu, accept_read haligned u, hst, hsu,
    hsu.trans (sameEngine_addReply _ u), rfl, ?_⟩
  rw [addReply_replies, readPort_congr hsu]

-- STATUS

/-- A field placed at bit `k` of a word is read back at its place. -/
theorem extractLsb'_placed_same {n k : Nat} (x : BitVec n) (h : k + n ≤ 32) :
    (x.setWidth 32 <<< k).extractLsb' k n = x := by
  apply BitVec.eq_of_getLsbD_eq
  intro i hi
  have hk : k + i < 32 := by omega
  simp [hi, hk]

/-- A field placed at bit `k` of a word puts nothing at the places before and after it. -/
theorem extractLsb'_placed_disjoint {n k : Nat} (x : BitVec n) (i m : Nat) (h : i + m ≤ k ∨ k + n ≤ i) :
    (x.setWidth 32 <<< k).extractLsb' i m = 0 := by
  apply BitVec.eq_of_getLsbD_eq
  intro j hj
  obtain hbelow | habove := h
  · have hlow : i + j < k := by omega
    simp [hlow]
  · have hhigh : x.getLsbD (i + j - k) = false := BitVec.getLsbD_of_ge _ _ (by omega)
    simp [hhigh]

/-- STATUS as four fields, each at its place: STATE at bit 0. -/
theorem status_eq_placed (s : State) :
    status s = s.state.code.setWidth 32 <<< 0 ||| s.err.code.setWidth 32 <<< 4 ||| s.var.setWidth 32 <<< 8
      ||| s.wsel.setWidth 32 <<< 12 := by
  rw [BitVec.shiftLeft_zero, status]

/-- Each field of STATUS is its register's code, and the reserved places are 0 (R28). -/
theorem status_fields (s : State) :
    (status s).extractLsb' 0 3 = s.state.code ∧ (status s).extractLsb' 3 1 = 0 ∧
      (status s).extractLsb' 4 3 = s.err.code ∧ (status s).extractLsb' 7 1 = 0 ∧
      (status s).extractLsb' 8 4 = s.var ∧ (status s).extractLsb' 12 4 = s.wsel ∧
      (status s).extractLsb' 16 16 = 0 := by
  simp (disch := omega) only [status_eq_placed, BitVec.extractLsb'_or, extractLsb'_placed_same,
    extractLsb'_placed_disjoint]
  simp

/-- Settles O32: the codes by their definition, the fields by their places in the word, the two accesses by R55. -/
theorem statusFields : Obligations.StatusFields := by
  refine ⟨⟨rfl, rfl, rfl, rfl, rfl⟩, ⟨rfl, rfl, rfl, rfl, rfl⟩, fun s => ⟨status_fields s, ?_, fun w => ?_⟩⟩
  · exact accept_read (off := 0x04) rfl s
  · exact accept_write_of_ne_cmd rfl (by decide) w s

end Sys2Proof.Machine
end

section
/-! PROOFS. The memory family (20_memory.md): the register map (R55), the accesses the port refuses (R54), the held
accesses taken in order (R57), instances that share nothing (R62). -/

namespace Sys2Proof.Machine

-- The register map

/-- Between STATUS and the DIGEST words, and past the DIGEST words, every offset is reserved (R53). -/
theorem portOf_reserved {off : BitVec 8} (h : (0x08 ≤ off.toNat ∧ off.toNat ≤ 0x3C) ∨ 0xC0 ≤ off.toNat) :
    portOf off = .reserved := by
  have hcmd : off.toNat ≠ 0x00 := by omega
  have hstatus : off.toNat ≠ 0x04 := by omega
  have hdigest : ¬(0x40 ≤ off.toNat ∧ off.toNat < 0xC0) := by omega
  simp only [portOf, hcmd, hstatus, hdigest, if_false]

/-- DIGEST[k] stands at offset 0x40 + 4k (R53). -/
theorem portOf_digest {k : Nat} (h : k < 32) : portOf (BitVec.ofNat 8 (0x40 + 4 * k)) = .digest k := by
  have hoff : (BitVec.ofNat 8 (0x40 + 4 * k)).toNat = 0x40 + 4 * k := by
    rw [BitVec.toNat_ofNat, Nat.mod_eq_of_lt (by omega)]
  have hcmd : 0x40 + 4 * k ≠ 0x00 := by omega
  have hstatus : 0x40 + 4 * k ≠ 0x04 := by omega
  have hdigest : 0x40 ≤ 0x40 + 4 * k ∧ 0x40 + 4 * k < 0xC0 := by omega
  have hindex : (0x40 + 4 * k - 0x40) / 4 = k := by omega
  simp only [portOf, hoff, hcmd, hstatus, hdigest, hindex, and_self, if_false, if_true]

/-- Settles O33: each read by the port its offset selects, each write by whether that port is CMD. -/
theorem registerMap : Obligations.RegisterMap := by
  refine ⟨fun s off w haligned hne => accept_write_of_ne_cmd haligned hne w s, fun s off haligned hoff => ?_,
    fun s => accept_read (off := 0x04) rfl s, fun s k hk => ?_, fun s w => accept_command w s⟩
  · have hzero : readPort s (portOf off) = some 0 := by
      obtain hcmd | hreserved := hoff
      · rw [portOf, if_pos hcmd]; rfl
      · rw [portOf_reserved hreserved]; rfl
    rw [accept_read haligned s, hzero]
    rfl
  · have haligned : (BitVec.ofNat 8 (0x40 + 4 * k)).toNat % 4 = 0 := by
      rw [BitVec.toNat_ofNat]; omega
    rw [accept_read haligned s, portOf_digest hk]
    rfl

-- Accesses outside the interface

/-- The accesses R54 leaves out: not 32 bits wide, or misaligned. -/
theorem inInterface_eq_false_iff (a : Access) :
    a.inInterface = false ↔ a.size ≠ .word ∨ a.offset.toNat % 4 ≠ 0 := by
  rw [Access.inInterface, Bool.and_eq_false_iff, beq_eq_false_iff_ne, beq_eq_false_iff_ne]

theorem accept_of_not_inInterface {a : Access} (s : State) (h : a.inInterface = false) :
    accept a s = .refused .accessOutsideInterface := by
  rw [accept, h]; rfl

/-- With no reset pending a step takes the oldest held access (R57). -/
theorem step_of_held {s : State} {a : Access} {rest : List Access} (hreset : s.resetReq = false)
    (hheld : s.offered = a :: rest) : step s = accept a { s with offered := rest } := by
  simp [step, hreset, hheld]

/-- Settles O34, by the port's own check; a step passes its oldest held access to the port. -/
theorem accessOutsideInterfaceIsRefused : Obligations.AccessOutsideInterfaceIsRefused := by
  refine ⟨fun a s hout => ?_, fun a rest s hout hreset hheld => ?_⟩
  · exact accept_of_not_inInterface s ((inInterface_eq_false_iff a).mpr hout)
  · rw [step_of_held hreset hheld]
    exact accept_of_not_inInterface _ ((inInterface_eq_false_iff a).mpr hout)

-- The held accesses in order

/-- `s` with other accesses held at its port. -/
def State.holding (s : State) (held : List Access) : State := { s with offered := held }

/-- An outcome with its next state changed by `f`; a fault or a refusal stays. -/
def mapNext (f : State → State) : Host.Outcome State Fault Refusal → Host.Outcome State Fault Refusal
  | .next t => .next (f t)
  | .fault r => .fault r
  | .refused r => .refused r

theorem signal_holding (e : ErrCode) (s : State) (held : List Access) :
    signal e (s.holding held) = (signal e s).holding held := by
  by_cases h : s.state = .error
  · rw [signal_of_error h, signal_of_error (s := s.holding held) h]
  · rw [signal_of_not_error h, signal_of_not_error (s := s.holding held) h]; rfl

theorem sameEngine_holding (s : State) (held : List Access) : (s.holding held).SameEngine s :=
  ⟨rfl, rfl, rfl, rfl, rfl, rfl⟩

theorem execInit_holding (v ws : Nibble) (s : State) (held : List Access) :
    execInit v ws (s.holding held) = mapNext (·.holding held) (execInit v ws s) := by
  have hrom : (s.holding held).rom = s.rom := rfl
  unfold execInit
  rw [hrom]
  cases s.rom.const ws with
  | none => rfl
  | some c =>
    by_cases hv : 3 ≤ v.toNat
    · simp only [hv, if_true]; rfl
    · simp only [hv, if_false]; rfl

theorem execFold_holding (b : Byte) (s : State) (held : List Access) :
    execFold b (s.holding held) = mapNext (·.holding held) (execFold b s) := by
  have hstate : (s.holding held).state = s.state := rfl
  have hrom : (s.holding held).rom.const (s.holding held).wsel = s.rom.const s.wsel := rfl
  have hacc : (s.holding held).acc = s.acc := rfl
  unfold execFold
  rw [hstate, hrom, hacc]
  by_cases hs : s.state.acceptsInput = true
  · rw [if_pos hs, if_pos hs]
    cases s.rom.const s.wsel with
    | none => rfl
    | some c => cases s.acc <;> rfl
  · rw [if_neg hs, if_neg hs, signal_holding]; rfl

theorem execFinish_holding (s : State) (held : List Access) :
    execFinish (s.holding held) = mapNext (·.holding held) (execFinish s) := by
  have hstate : (s.holding held).state = s.state := rfl
  unfold execFinish
  rw [hstate]
  by_cases hs : s.state.acceptsInput = true
  · rw [if_pos hs, if_pos hs]; rfl
  · rw [if_neg hs, if_neg hs, signal_holding]; rfl

/-- A command neither looks at the held accesses nor changes them (R140). -/
theorem exec_holding (i : Instr) (s : State) (held : List Access) :
    exec i (s.holding held) = mapNext (·.holding held) (exec i s) := by
  cases i with
  | nop => rfl
  | init v ws => exact execInit_holding v ws s held
  | fold b => exact execFold_holding b s held
  | finish => exact execFinish_holding s held
  | clear => rfl

theorem acceptCommand_holding (w : Word) (s : State) (held : List Access) :
    acceptCommand w (s.holding held) = mapNext (·.holding held) (acceptCommand w s) := by
  unfold acceptCommand
  cases decode w with
  | ok i => exact exec_holding i s held
  | error why => exact congrArg Host.Outcome.next (signal_holding .illegalCommand s held)

/-- What one access does, completed or not, does not depend on the accesses held behind it (R57). -/
theorem accept_holding (a : Access) (s : State) (held : List Access) :
    accept a (s.holding held) = mapNext (·.holding held) (accept a s) := by
  by_cases hi : a.inInterface = true
  · unfold accept
    rw [if_pos hi, if_pos hi]
    cases a.op with
    | read =>
      have hreply := readPort_congr (sameEngine_holding s held) (portOf a.offset)
      exact congrArg (fun r => Host.Outcome.next (addReply r (s.holding held))) hreply
    | write w =>
      cases portOf a.offset with
      | cmd => exact acceptCommand_holding w s held
      | status => rfl
      | digest k => rfl
      | reserved => rfl
  · have hout : a.inInterface = false := by simpa using hi
    rw [accept_of_not_inInterface s hout, accept_of_not_inInterface _ hout]; rfl

/-- An access raises no reset request. -/
theorem accept_resetReq {a : Access} {s t : State} (h : accept a s = .next t) : t.resetReq = s.resetReq := by
  obtain ⟨w, -, hcmd⟩ | ⟨w, -, -, rfl⟩ | ⟨-, rfl⟩ := accept_cases h
  · obtain ⟨-, hreset, -⟩ := acceptCommand_port_frame hcmd
    exact hreset
  · rfl
  · rfl

/-- As many steps as `as` has accesses take exactly those from the head of the held ones, and leave the rest held. -/
theorem run_core_holding_append (as rest : List Access) (s : State) (hreset : s.resetReq = false) :
    Host.Core.run core as.length (s.holding (as ++ rest)) = runAccesses as (s.holding rest) := by
  induction as generalizing s with
  | nil => rfl
  | cons a as ih =>
    have hstep : core.step (s.holding (a :: as ++ rest)) = mapNext (·.holding (as ++ rest)) (accept a s) :=
      (step_of_held (s := s.holding (a :: as ++ rest)) hreset rfl).trans (accept_holding a s (as ++ rest))
    simp only [List.length_cons, Host.Core.run, hstep, runAccesses, accept_holding]
    cases hacc : accept a s with
    | next t => exact ih t ((accept_resetReq hacc).trans hreset)
    | fault r => rfl
    | refused r => rfl

/-- Settles O39, by induction on the held accesses: the first step is the first access, whatever is held behind it. -/
theorem stepsTakeHeldAccessesInOrder : Obligations.StepsTakeHeldAccessesInOrder := by
  intro s hreset
  have hrun := run_core_holding_append s.offered [] s hreset
  rw [List.append_nil] at hrun
  exact hrun

-- Instances

/-- A step of the first engine changes that engine only. -/
theorem stepAt_zero_cons {p : Placed} {ps qs : List Placed} (h : stepAt 0 (p :: ps) = .next qs) :
    ∃ t, step p.engine = .next t ∧ qs = { p with engine := t } :: ps := by
  unfold stepAt at h
  split at h
  · cases h; exact ⟨_, ‹_›, rfl⟩
  · cases h
  · cases h

/-- A step of a later engine keeps the first one. -/
theorem stepAt_succ_cons {k : Nat} {p : Placed} {ps qs : List Placed} (h : stepAt (k + 1) (p :: ps) = .next qs) :
    ∃ qs', stepAt k ps = .next qs' ∧ qs = p :: qs' := by
  unfold stepAt at h
  split at h
  · cases h; exact ⟨_, ‹_›, rfl⟩
  · cases h
  · cases h

/-- A step of engine `k` keeps every other one. -/
theorem stepAt_getElem?_of_ne {k j : Nat} {ps qs : List Placed} (h : stepAt k ps = .next qs) (hj : j ≠ k) :
    qs[j]? = ps[j]? := by
  induction ps generalizing k j qs with
  | nil => cases k <;> (cases h; rfl)
  | cons p ps ih =>
    cases k with
    | zero =>
      obtain ⟨t, -, rfl⟩ := stepAt_zero_cons h
      obtain ⟨i, rfl⟩ := Nat.exists_eq_succ_of_ne_zero hj
      rfl
    | succ k =>
      obtain ⟨qs', hqs, rfl⟩ := stepAt_succ_cons h
      cases j with
      | zero => rfl
      | succ j => exact ih hqs fun hjk => hj (congrArg Nat.succ hjk)

/-- A reset of engine `k` keeps every other one. -/
theorem assertResetAt_getElem?_of_ne {k j : Nat} (ps : List Placed) (hj : j ≠ k) :
    (assertResetAt k ps)[j]? = ps[j]? := by
  induction ps generalizing k j with
  | nil => cases k <;> rfl
  | cons p ps ih =>
    cases k with
    | zero =>
      obtain ⟨i, rfl⟩ := Nat.exists_eq_succ_of_ne_zero hj
      rfl
    | succ k =>
      cases j with
      | zero => rfl
      | succ j => exact ih fun hjk => hj (congrArg Nat.succ hjk)

/-- An address with an offset in a block is one of the block's addresses (R53). -/
theorem mem_block_of_blockOffset {base addr : Nat} {off : BitVec 8} (h : blockOffset base addr = some off) :
    base ≤ addr ∧ addr ≤ base + 0xFF := by
  unfold blockOffset at h
  split at h
  · assumption
  · cases h

/-- An access goes to the first engine, where its block holds the address, or to a later one. -/
theorem offerAt_cons {addr : Nat} {size : AccessSize} {op : AccessOp} {p : Placed} {ps qs : List Placed}
    (h : offerAt addr size op (p :: ps) = some qs) :
    (∃ off, blockOffset p.base addr = some off ∧ qs = { p with engine := p.engine.offer ⟨off, size, op⟩ } :: ps) ∨
    (∃ qs', offerAt addr size op ps = some qs' ∧ qs = p :: qs') := by
  unfold offerAt at h
  split at h
  · cases h; exact .inl ⟨_, ‹_›, rfl⟩
  · obtain ⟨qs', hqs, rfl⟩ := Option.map_eq_some_iff.mp h
    exact .inr ⟨qs', hqs, rfl⟩

/-- An access keeps every engine whose block does not hold its address. -/
theorem offerAt_getElem?_of_not_mem_block {addr : Nat} {size : AccessSize} {op : AccessOp} {ps qs : List Placed} {j : Nat}
    {p : Placed} (h : offerAt addr size op ps = some qs) (hp : ps[j]? = some p)
    (hout : ¬(p.base ≤ addr ∧ addr ≤ p.base + 0xFF)) : qs[j]? = ps[j]? := by
  induction ps generalizing j qs with
  | nil => cases h
  | cons q ps ih =>
    obtain ⟨off, hoff, rfl⟩ | ⟨qs', hqs, rfl⟩ := offerAt_cons h
    · cases j with
      | zero =>
        cases hp
        exact absurd (mem_block_of_blockOffset hoff) hout
      | succ j => rfl
    · cases j with
      | zero => rfl
      | succ j => exact ih hqs hp

/-- Settles O57: each operation on the list of instances rebuilds it with one engine changed. -/
theorem instancesAreIndependent : Obligations.InstancesAreIndependent :=
  ⟨fun _ _ _ _ hstep hj => stepAt_getElem?_of_ne hstep hj, fun _ _ ps hj => assertResetAt_getElem?_of_ne ps hj,
    fun _ _ _ _ _ _ _ hoffer hp hout => offerAt_getElem?_of_not_mem_block hoffer hp hout⟩

end Sys2Proof.Machine
end

section
/-! PROOFS. The encoding family (30_encoding.md): the rows of the opcode table read field by field, which words decode to
an instruction of a row (R73), and the words that select none (R77). -/

namespace Sys2Proof

-- A word read field by field

/-- A word selects a row when each of its five fields, masked, is the pattern's (R71, R73). -/
theorem OpcodeRow.selects_iff_fields (r : OpcodeRow) (w : Word) :
    r.selects w = true ↔
      opField w &&& opField r.mask = opField r.pattern ∧ varField w &&& varField r.mask = varField r.pattern ∧
      wselField w &&& wselField r.mask = wselField r.pattern ∧ rsvField w &&& rsvField r.mask = rsvField r.pattern ∧
      byteField w &&& byteField r.mask = byteField r.pattern := by
  rw [OpcodeRow.selects, beq_iff_eq]
  simp only [opField, varField, wselField, rsvField, byteField, ← BitVec.extractLsb'_and]
  constructor
  · intro h
    simp only [h, and_self]
  · rintro ⟨hop, hvar, hwsel, hrsv, hbyte⟩
    exact eq_of_fields hop hvar hwsel hrsv hbyte

/-- A bit range is zero when each of its bits is. -/
theorem extractLsb'_eq_zero_iff (w : Word) (k n : Nat) :
    w.extractLsb' k n = 0 ↔ ∀ i < n, w.getLsbD (k + i) = false := by
  constructor
  · intro h i hi
    simpa [hi] using congrArg (·.getLsbD i) h
  · intro h
    apply BitVec.eq_of_getLsbD_eq
    intro i hi
    simp [hi, h i hi]

/-- Neighbouring bit ranges are zero together when each is. -/
theorem extractLsb'_add_eq_zero_iff (w : Word) (k m n : Nat) :
    w.extractLsb' k (m + n) = 0 ↔ w.extractLsb' (k + m) n = 0 ∧ w.extractLsb' k m = 0 := by
  simp only [extractLsb'_eq_zero_iff]
  constructor
  · intro h
    refine ⟨fun i hi => ?_, fun i hi => h i (by omega)⟩
    rw [Nat.add_assoc]
    exact h (m + i) (by omega)
  · rintro ⟨hhigh, hlow⟩ i hi
    obtain hm | hm := Nat.lt_or_ge i m
    · exact hlow i hm
    · have hbit := hhigh (i - m) (by omega)
      rwa [show k + m + (i - m) = k + i by omega] at hbit

/-- R80's test `w[19:0] = 0`. -/
theorem low20_eq_zero_iff (w : Word) : w.extractLsb' 0 20 = 0 ↔ rsvField w = 0 ∧ byteField w = 0 :=
  extractLsb'_add_eq_zero_iff w 0 8 12

/-- R80's test `w[27:8] = 0`. -/
theorem middle20_eq_zero_iff (w : Word) :
    w.extractLsb' 8 20 = 0 ↔ varField w = 0 ∧ wselField w = 0 ∧ rsvField w = 0 := by
  rw [extractLsb'_add_eq_zero_iff w 8 16 4, extractLsb'_add_eq_zero_iff w 8 12 4, varField, wselField, rsvField]

/-- R80's test `w[27:0] = 0`. -/
theorem low28_eq_zero_iff (w : Word) :
    w.extractLsb' 0 28 = 0 ↔ varField w = 0 ∧ wselField w = 0 ∧ rsvField w = 0 ∧ byteField w = 0 := by
  rw [extractLsb'_add_eq_zero_iff w 0 8 20, middle20_eq_zero_iff, byteField, and_assoc, and_assoc]

-- The five rows

/-- A row with the whole word fixed: one OP, and w[27:0] = 0. -/
theorem selects_fixed_word_iff (name : String) {p : Word} (hp : p.extractLsb' 0 28 = 0) (w : Word) :
    (OpcodeRow.mk name p 0xFFFFFFFF).selects w = true ↔ opField w = opField p ∧ w.extractLsb' 0 28 = 0 := by
  obtain ⟨hvar, hwsel, hrsv, hbyte⟩ := (low28_eq_zero_iff p).mp hp
  have hw : w &&& 0xFFFFFFFF = w := BitVec.and_allOnes
  rw [OpcodeRow.selects, beq_iff_eq, hw, low28_eq_zero_iff]
  constructor
  · rintro rfl
    exact ⟨rfl, hvar, hwsel, hrsv, hbyte⟩
  · rintro ⟨hop, hvar', hwsel', hrsv', hbyte'⟩
    exact eq_of_fields hop (hvar'.trans hvar.symm) (hwsel'.trans hwsel.symm) (hrsv'.trans hrsv.symm)
      (hbyte'.trans hbyte.symm)

theorem nop_row_selects_iff (w : Word) :
    Instr.nop.row.selects w = true ↔ opField w = 0 ∧ w.extractLsb' 0 28 = 0 :=
  selects_fixed_word_iff "NOP" rfl w

theorem finish_row_selects_iff (w : Word) :
    Instr.finish.row.selects w = true ↔ opField w = 3 ∧ w.extractLsb' 0 28 = 0 :=
  selects_fixed_word_iff "FINISH" rfl w

theorem clear_row_selects_iff (w : Word) :
    Instr.clear.row.selects w = true ↔ opField w = 4 ∧ w.extractLsb' 0 28 = 0 :=
  selects_fixed_word_iff "CLEAR" rfl w

/-- INIT's mask keeps OP and w[19:0]. -/
theorem init_row_selects_iff (v ws : Nibble) (w : Word) :
    (Instr.init v ws).row.selects w = true ↔ opField w = 1 ∧ w.extractLsb' 0 20 = 0 := by
  have hop : opField w &&& 15#4 = opField w := BitVec.and_allOnes
  have hrsv : rsvField w &&& 4095#12 = rsvField w := BitVec.and_allOnes
  have hbyte : byteField w &&& 255#8 = byteField w := BitVec.and_allOnes
  rw [Instr.row, OpcodeRow.selects_iff_fields, low20_eq_zero_iff]
  change opField w &&& 15#4 = 1 ∧ varField w &&& 0 = 0 ∧ wselField w &&& 0 = 0 ∧ rsvField w &&& 4095#12 = 0 ∧
    byteField w &&& 255#8 = 0 ↔ _
  simp [hop, hrsv, hbyte]

/-- FOLD's mask keeps w[31:8]. -/
theorem fold_row_selects_iff (b : Byte) (w : Word) :
    (Instr.fold b).row.selects w = true ↔ opField w = 2 ∧ w.extractLsb' 8 20 = 0 := by
  have hnibble (x : Nibble) : x &&& 15#4 = x := BitVec.and_allOnes
  have hrsv : rsvField w &&& 4095#12 = rsvField w := BitVec.and_allOnes
  rw [Instr.row, OpcodeRow.selects_iff_fields, middle20_eq_zero_iff]
  change opField w &&& 15#4 = 2 ∧ varField w &&& 15#4 = 0 ∧ wselField w &&& 15#4 = 0 ∧ rsvField w &&& 4095#12 = 0 ∧
    byteField w &&& 0 = 0 ↔ _
  simp [hnibble, hrsv]

/-- The table's rows are the instructions' rows. -/
theorem mem_opcodeTable_iff (r : OpcodeRow) : r ∈ opcodeTable ↔ ∃ i : Instr, i.row = r := by
  constructor
  · intro h
    simp only [opcodeTable, List.mem_cons, List.not_mem_nil, or_false] at h
    obtain rfl | rfl | rfl | rfl | rfl := h <;> exact ⟨_, rfl⟩
  · rintro ⟨i, rfl⟩
    cases i <;> simp [opcodeTable, Instr.row]

-- Selection and decoding

/-- A word selects the row of the instruction it decodes to. -/
theorem row_selects_of_decode {w : Word} {i : Instr} (h : decode w = .ok i) : i.row.selects w = true := by
  obtain ⟨hop, hzero, rfl⟩ | ⟨hop, hzero, rfl⟩ | ⟨hop, hzero, rfl⟩ | ⟨hop, hzero, rfl⟩ | ⟨hop, hzero, rfl⟩ :=
    decode_ok_cases h
  · exact (nop_row_selects_iff w).mpr ⟨hop, hzero⟩
  · exact (init_row_selects_iff _ _ w).mpr ⟨hop, hzero⟩
  · exact (fold_row_selects_iff _ w).mpr ⟨hop, hzero⟩
  · exact (finish_row_selects_iff w).mpr ⟨hop, hzero⟩
  · exact (clear_row_selects_iff w).mpr ⟨hop, hzero⟩

/-- A word that selects an instruction's row decodes to an instruction of that row, with the word's own operands. -/
theorem exists_decode_of_row_selects {w : Word} {i : Instr} (h : i.row.selects w = true) :
    ∃ j, decode w = .ok j ∧ j.row = i.row := by
  cases i with
  | nop =>
    obtain ⟨hop, hzero⟩ := (nop_row_selects_iff w).mp h
    exact ⟨.nop, by simp [decode, hop, hzero], rfl⟩
  | init v ws =>
    obtain ⟨hop, hzero⟩ := (init_row_selects_iff v ws w).mp h
    exact ⟨.init (varField w) (wselField w), by simp [decode, hop, hzero], rfl⟩
  | fold b =>
    obtain ⟨hop, hzero⟩ := (fold_row_selects_iff b w).mp h
    exact ⟨.fold (byteField w), by simp [decode, hop, hzero], rfl⟩
  | finish =>
    obtain ⟨hop, hzero⟩ := (finish_row_selects_iff w).mp h
    exact ⟨.finish, by simp [decode, hop, hzero], rfl⟩
  | clear =>
    obtain ⟨hop, hzero⟩ := (clear_row_selects_iff w).mp h
    exact ⟨.clear, by simp [decode, hop, hzero], rfl⟩

theorem selects_iff_decodes_to {r : OpcodeRow} (hr : r ∈ opcodeTable) (w : Word) :
    r.selects w = true ↔ ∃ i, decode w = .ok i ∧ i.row = r := by
  obtain ⟨i, rfl⟩ := (mem_opcodeTable_iff r).mp hr
  constructor
  · exact exists_decode_of_row_selects
  · rintro ⟨j, hj, hrow⟩
    exact hrow ▸ row_selects_of_decode hj

/-- Every row's mask keeps OP (R73). -/
theorem opField_of_selects {r : OpcodeRow} (hr : r ∈ opcodeTable) {w : Word} (h : r.selects w = true) :
    opField w = opField r.pattern := by
  have hmask : ∀ r ∈ opcodeTable, opField r.mask = BitVec.allOnes 4 := by decide
  obtain ⟨hop, -⟩ := (r.selects_iff_fields w).mp h
  rwa [hmask r hr, BitVec.and_allOnes] at hop

/-- Two rows of one word are the row of the one instruction it decodes to. -/
theorem selected_row_unique {w : Word} {r q : OpcodeRow} (hr : r ∈ opcodeTable) (hq : q ∈ opcodeTable)
    (hwr : r.selects w = true) (hwq : q.selects w = true) : r = q := by
  obtain ⟨i, hi, rfl⟩ := (selects_iff_decodes_to hr w).mp hwr
  obtain ⟨j, hj, rfl⟩ := (selects_iff_decodes_to hq w).mp hwq
  cases hi.symm.trans hj
  rfl

/-- Settles O3: the table by its definition, selection by the row of the instruction the word decodes to. -/
theorem wordSelectsRowIffItDecodesToIt : Obligations.WordSelectsRowIffItDecodesToIt := by
  refine ⟨rfl, fun w r hr => ⟨?_, selects_iff_decodes_to hr w, opField_of_selects hr⟩,
    fun w r q hr hq hwr hwq => selected_row_unique hr hq hwr hwq, rfl⟩
  rw [OpcodeRow.selects, beq_iff_eq]

-- Words that select no row

theorem decode_error_of_no_row {w : Word} (h : ∀ r ∈ opcodeTable, r.selects w = false) :
    ∃ why, decode w = .error why := by
  cases hw : decode w with
  | error why => exact ⟨why, rfl⟩
  | ok i =>
    have hsel := row_selects_of_decode hw
    rw [h i.row ((mem_opcodeTable_iff _).mpr ⟨i, rfl⟩)] at hsel
    cases hsel

/-- The sixteen values of OP: the five of the table, and the unassigned ones (R77). -/
theorem opField_cases (w : Word) :
    5 ≤ (opField w).toNat ∨ opField w = 0 ∨ opField w = 1 ∨ opField w = 2 ∨ opField w = 3 ∨ opField w = 4 := by
  generalize opField w = op
  revert op
  decide

/-- A word selects no row by its OP, or by a must-be-zero bit of the row its OP names (R77). -/
theorem no_row_selects_iff (w : Word) :
    (∀ r ∈ opcodeTable, r.selects w = false) ↔
      5 ≤ (opField w).toNat ∨ rsvField w ≠ 0 ∨ (opField w ≠ 1 ∧ (varField w ≠ 0 ∨ wselField w ≠ 0)) ∨
        (opField w ≠ 2 ∧ byteField w ≠ 0) := by
  simp only [opcodeTable, List.forall_mem_cons, List.not_mem_nil, false_imp_iff, implies_true, and_true,
    ← Bool.not_eq_true, nop_row_selects_iff, init_row_selects_iff, fold_row_selects_iff, finish_row_selects_iff,
    clear_row_selects_iff, low28_eq_zero_iff, low20_eq_zero_iff, middle20_eq_zero_iff]
  obtain hop | hop | hop | hop | hop | hop := opField_cases w
  · have hne {n : Nibble} (hn : n.toNat < 5) : opField w ≠ n := by rintro rfl; omega
    simp [hop, hne]
  all_goals
    simp [hop]
    tauto

end Sys2Proof

namespace Sys2Proof.Machine

/-- Settles O4: the write reaches the command port with a word the decoder rejects. -/
theorem illegalWordSignalsIllegalCommand : Obligations.IllegalWordSignalsIllegalCommand := by
  refine ⟨fun w hnone => ?_, no_row_selects_iff⟩
  obtain ⟨why, hw⟩ := decode_error_of_no_row hnone
  refine ⟨⟨why, hw⟩, fun s => ?_⟩
  rw [accept_command, acceptCommand, hw]
  rfl

end Sys2Proof.Machine
end

section
/-! PROOFS. The wide arithmetic family (41_wide_arith.md): XorByte bit by bit, and the bits it changes (R123). -/

namespace Sys2Proof.Machine

/-- XorByte bit by bit: the byte's bits past bit 7 read as 0 (R123). -/
theorem testBit_xorByte {W : Nat} (hW : 8 ≤ W) (a : Nat) (b : Byte) (j : Nat) :
    (xorByte W a b).testBit j = (a.testBit j ^^ b.getLsbD j) := by
  rw [xorByte_eq hW, Nat.testBit_xor, BitVec.testBit_toNat]

/-- Settles O42: bit j of the byte is one of its eight bits, or 0 past them. -/
theorem xorByteChangesLowByteOnly : Obligations.XorByteChangesLowByteOnly := by
  intro W a b hW j
  rw [testBit_xorByte hW]
  split
  case isTrue => rfl
  case isFalse hj => rw [BitVec.getLsbD_of_ge b j (not_lt.mp hj), Bool.xor_false]

end Sys2Proof.Machine
end

section
/-! PROOFS. The command family (42_commands.md): which words are NOP and CLEAR (R142, R149), what each command answers case
by case (R142 to R149), that a command completes, and that it consults the registers and the ROM alone (R140). -/

namespace Sys2Proof

-- The words of NOP and CLEAR

/-- Where a row's mask keeps every bit, the row's pattern is the only word that decodes to its instruction (R73). -/
theorem eq_pattern_of_decode {w : Word} {i : Instr} (hmask : i.row.mask = BitVec.allOnes 32) (h : decode w = .ok i) :
    w = i.row.pattern := by
  have hsel := row_selects_of_decode h
  rwa [OpcodeRow.selects, beq_iff_eq, hmask, BitVec.and_allOnes] at hsel

theorem decode_eq_nop_iff (w : Word) : decode w = .ok .nop ↔ w = 0x00000000 :=
  ⟨eq_pattern_of_decode rfl, by rintro rfl; rfl⟩

theorem decode_eq_clear_iff (w : Word) : decode w = .ok .clear ↔ w = 0x40000000 :=
  ⟨eq_pattern_of_decode rfl, by rintro rfl; rfl⟩

/-- A word with OP = 0 that is accepted is a NOP (R142). -/
theorem eq_nop_of_decode {w : Word} {i : Instr} (hop : opField w = 0) (h : decode w = .ok i) : i = .nop := by
  obtain ⟨-, -, rfl⟩ | ⟨hop', -⟩ | ⟨hop', -⟩ | ⟨hop', -⟩ | ⟨hop', -⟩ := decode_ok_cases h
  · rfl
  all_goals exact absurd (hop.symm.trans hop') (by decide)

-- Widths

/-- `width(ws) = 32 · 2^ws` (R75). -/
theorem Width.bits_of_ofCode {ws : Nibble} {w : Width} (h : Width.ofCode ws = some w) : w.bits = 32 * 2 ^ ws.toNat := by
  unfold Width.ofCode at h
  repeat' split at h
  all_goals cases h
  all_goals
    subst_vars
    rfl

end Sys2Proof

namespace Sys2Proof.Machine

theorem const_bits {r : Rom} {ws : Nibble} {c : Consts} (h : r.const ws = some c) : c.bits = 32 * 2 ^ ws.toNat := by
  obtain ⟨w, hw, -, hbits, -⟩ := const_spec h
  exact hbits.trans (Width.bits_of_ofCode hw)

-- What each command answers, case by case

theorem execInit_of_unsupportedWidth {s : State} {ws : Nibble} (v : Nibble) (hc : s.rom.const ws = none) :
    execInit v ws s = .next (failInit .unsupportedWidth v ws s) := by
  simp only [execInit, hc]

theorem execInit_of_unsupportedVariant {s : State} {v ws : Nibble} {c : Consts} (hc : s.rom.const ws = some c)
    (hv : 3 ≤ v.toNat) : execInit v ws s = .next (failInit .unsupportedVariant v ws s) := by
  simp only [execInit, hc, if_pos hv]

theorem execInit_of_supported {s : State} {v ws : Nibble} {c : Consts} (hc : s.rom.const ws = some c)
    (hv : v.toNat < 3) : execInit v ws s = .next (startComputation v ws (seed c v) s) := by
  simp only [execInit, hc, if_neg (Nat.not_le.mpr hv)]

theorem execFold_of_accepts {s : State} {c : Consts} {a : Nat} (b : Byte) (hs : s.state.acceptsInput = true)
    (hc : s.rom.const s.wsel = some c) (ha : s.acc = some a) :
    execFold b s = .next (storeFold (foldStep c s.var a b) s) := by
  simp only [execFold, hs, hc, ha, if_true]

theorem execFold_of_not_accepts {s : State} (b : Byte) (hs : s.state.acceptsInput = false) :
    execFold b s = .next (signal .sequence s) := by
  simp only [execFold, hs, Bool.false_eq_true, if_false]

theorem execFinish_of_accepts {s : State} (hs : s.state.acceptsInput = true) : execFinish s = .next (markDone s) := by
  simp only [execFinish, hs, if_true]

theorem execFinish_of_not_accepts {s : State} (hs : s.state.acceptsInput = false) :
    execFinish s = .next (signal .sequence s) := by
  simp only [execFinish, hs, Bool.false_eq_true, if_false]

theorem acceptCommand_of_decode {w : Word} {i : Instr} (s : State) (h : decode w = .ok i) :
    acceptCommand w s = exec i s := by
  simp only [acceptCommand, h]

theorem acceptCommand_of_illegal {w : Word} {why : Illegal} (s : State) (h : decode w = .error why) :
    acceptCommand w s = .next (signal .illegalCommand s) := by
  simp only [acceptCommand, h, execIllegal]

-- The operands as the spec writes them

theorem seed_eq (c : Consts) (v : Nibble) : seed c v = if v.toNat = 0 then 0 else c.basis := by
  have hzero : v = 0 ↔ v.toNat = 0 := BitVec.toNat_eq
  simp only [seed, hzero]

/-- R146: multiply, then XOR. -/
theorem foldStep_of_fnv0_or_fnv1 {c : Consts} {v : Nibble} (hW : 8 ≤ c.bits) (hv : v = 0 ∨ v = 1) (a : Nat) (b : Byte) :
    foldStep c v a b = (a * c.prime % 2 ^ c.bits) ^^^ b.toNat := by
  rw [foldStep, if_pos hv, step1, xorByte_eq hW, mulW]

/-- R147: XOR, then multiply. -/
theorem foldStep_of_fnv1a {c : Consts} (hW : 8 ≤ c.bits) (a : Nat) (b : Byte) :
    foldStep c 2 a b = (a ^^^ b.toNat) * c.prime % 2 ^ c.bits := by
  rw [foldStep, if_neg (by decide), step1a, xorByte_eq hW, mulW]

/-- Every width has room for the byte (R123). -/
theorem const_bits_ge_byte {r : Rom} {ws : Nibble} {c : Consts} (h : r.const ws = some c) : 8 ≤ c.bits :=
  le_trans (by decide) (const_bits_ge h)

-- The statements of the single commands

/-- Settles O15: NOP is the one instruction an accepted word with OP = 0 decodes to. -/
theorem nopChangesNothing : Obligations.NopChangesNothing := by
  refine ⟨fun s => rfl, rfl, decode_eq_nop_iff, fun w hop hne => ?_⟩
  cases hw : decode w with
  | error why => exact ⟨why, rfl⟩
  | ok i =>
    cases eq_nop_of_decode hop hw
    exact absurd ((decode_eq_nop_iff w).mp hw) hne

/-- Settles O16: the seed is 0 or the ROM's basis, and both fit the width the code selects. -/
theorem initStartsAtTheSeed : Obligations.InitStartsAtTheSeed := by
  intro s v ws c hc hv
  rw [← seed_eq, ← const_bits hc]
  exact ⟨execInit_of_supported hc (Nat.lt_succ_of_le hv), seed_lt hc v⟩

/-- Settles O19: FOLD stores the fold step, which for VAR 0 and 1 multiplies first. -/
theorem foldMultipliesThenXors : Obligations.FoldMultipliesThenXors := by
  intro s b c a hs hv hc ha
  rw [← foldStep_of_fnv0_or_fnv1 (const_bits_ge_byte hc) hv]
  exact execFold_of_accepts b ((acceptsInput_iff _).mpr hs) hc ha

/-- Settles O20: FOLD stores the fold step, which for VAR 2 multiplies last. -/
theorem foldXorsThenMultiplies : Obligations.FoldXorsThenMultiplies := by
  intro s b c a hs hv hc ha
  rw [← foldStep_of_fnv1a (const_bits_ge_byte hc), ← hv]
  exact execFold_of_accepts b ((acceptsInput_iff _).mpr hs) hc ha

theorem status_clearRegisters (s : State) : status (clearRegisters s) = 0x00000000 := by
  simp only [status, clearRegisters_state, clearRegisters_err, clearRegisters_var, clearRegisters_wsel]
  decide

/-- Settles O23: CLEAR writes the reset registers, whose STATUS is 0. -/
theorem clearReturnsToResetRegisters : Obligations.ClearReturnsToResetRegisters := by
  refine ⟨fun s => rfl, fun s t h => ?_, decode_eq_clear_iff⟩
  cases h
  exact status_clearRegisters s

-- A command completes

/-- In SEEDED and FOLDING of R30 FOLD has both its operands (R145). -/
theorem execFold_completes {s : State} (hs : s.Inv) (b : Byte) : ∃ t, execFold b s = .next t := by
  cases hin : s.state.acceptsInput with
  | false => exact ⟨_, execFold_of_not_accepts b hin⟩
  | true =>
    obtain ⟨-, -, c, a, hc, ha, -⟩ := hs.active (holdsValue_of_acceptsInput hin)
    exact ⟨_, execFold_of_accepts b hin hc ha⟩

theorem execInit_completes (v ws : Nibble) (s : State) : ∃ t, execInit v ws s = .next t := by
  cases hc : s.rom.const ws with
  | none => exact ⟨_, execInit_of_unsupportedWidth v hc⟩
  | some c =>
    obtain hv | hv := Nat.lt_or_ge v.toNat 3
    · exact ⟨_, execInit_of_supported hc hv⟩
    · exact ⟨_, execInit_of_unsupportedVariant hc hv⟩

theorem execFinish_completes (s : State) : ∃ t, execFinish s = .next t := by
  cases hin : s.state.acceptsInput with
  | false => exact ⟨_, execFinish_of_not_accepts hin⟩
  | true => exact ⟨_, execFinish_of_accepts hin⟩

/-- `exec` is total on the register states of R30 (R140). -/
theorem exec_completes {s : State} (hs : s.Inv) (i : Instr) : ∃ t, exec i s = .next t := by
  cases i with
  | nop => exact ⟨s, rfl⟩
  | init v ws => exact execInit_completes v ws s
  | fold b => exact execFold_completes hs b
  | finish => exact execFinish_completes s
  | clear => exact ⟨clearRegisters s, rfl⟩

theorem acceptCommand_completes {s : State} (hs : s.Inv) (w : Word) : ∃ t, acceptCommand w s = .next t := by
  cases hw : decode w with
  | ok i => exact acceptCommand_of_decode s hw ▸ exec_completes hs i
  | error why => exact ⟨_, acceptCommand_of_illegal s hw⟩

-- A command consults the registers and the ROM alone

section SameEngine

variable {s u t : State}

theorem sameEngine_signal (e : ErrCode) (h : s.SameEngine u) : (signal e s).SameEngine (signal e u) := by
  by_cases hs : s.state = .error
  · rwa [signal_of_error hs, signal_of_error (h.state ▸ hs)]
  · rw [signal_of_not_error hs, signal_of_not_error (h.state ▸ hs)]
    exact ⟨rfl, rfl, h.var, h.wsel, rfl, h.rom⟩

theorem execInit_congr {v ws : Nibble} (h : s.SameEngine u) (hexec : execInit v ws s = .next t) :
    ∃ t', execInit v ws u = .next t' ∧ t.SameEngine t' := by
  obtain ⟨hc, rfl⟩ | ⟨c, hc, hv, rfl⟩ | ⟨c, hc, hv, rfl⟩ := execInit_cases hexec <;> rw [h.rom] at hc
  · exact ⟨_, execInit_of_unsupportedWidth v hc, rfl, rfl, rfl, rfl, rfl, h.rom⟩
  · exact ⟨_, execInit_of_unsupportedVariant hc hv, rfl, rfl, rfl, rfl, rfl, h.rom⟩
  · exact ⟨_, execInit_of_supported hc hv, rfl, rfl, rfl, rfl, rfl, h.rom⟩

theorem execFold_congr {b : Byte} (h : s.SameEngine u) (hexec : execFold b s = .next t) :
    ∃ t', execFold b u = .next t' ∧ t.SameEngine t' := by
  obtain ⟨hin, c, a, hc, ha, rfl⟩ | ⟨hin, rfl⟩ := execFold_cases hexec <;> rw [h.state] at hin
  · rw [h.rom, h.wsel] at hc
    rw [h.acc] at ha
    rw [h.var]
    exact ⟨_, execFold_of_accepts b hin hc ha, rfl, h.err, h.var, h.wsel, rfl, h.rom⟩
  · exact ⟨_, execFold_of_not_accepts b hin, sameEngine_signal .sequence h⟩

theorem execFinish_congr (h : s.SameEngine u) (hexec : execFinish s = .next t) :
    ∃ t', execFinish u = .next t' ∧ t.SameEngine t' := by
  obtain ⟨hin, rfl⟩ | ⟨hin, rfl⟩ := execFinish_cases hexec <;> rw [h.state] at hin
  · exact ⟨_, execFinish_of_accepts hin, rfl, h.err, h.var, h.wsel, h.acc, h.rom⟩
  · exact ⟨_, execFinish_of_not_accepts hin, sameEngine_signal .sequence h⟩

/-- Two states with the same registers and ROM answer a command with the same registers and ROM (R140). -/
theorem exec_congr {i : Instr} (h : s.SameEngine u) (hexec : exec i s = .next t) :
    ∃ t', exec i u = .next t' ∧ t.SameEngine t' := by
  cases i with
  | nop => cases hexec; exact ⟨u, rfl, h⟩
  | init v ws => exact execInit_congr h hexec
  | fold b => exact execFold_congr h hexec
  | finish => exact execFinish_congr h hexec
  | clear => cases hexec; exact ⟨clearRegisters u, rfl, rfl, rfl, rfl, rfl, rfl, h.rom⟩

theorem acceptCommand_congr {w : Word} (h : s.SameEngine u) (hcmd : acceptCommand w s = .next t) :
    ∃ t', acceptCommand w u = .next t' ∧ t.SameEngine t' := by
  obtain ⟨i, hw, hexec⟩ | ⟨why, hw, rfl⟩ := acceptCommand_cases hcmd
  · rw [acceptCommand_of_decode u hw]
    exact exec_congr h hexec
  · exact ⟨_, acceptCommand_of_illegal u hw, sameEngine_signal .illegalCommand h⟩

end SameEngine

/-- Settles O14: the write to CMD is the command word's `acceptCommand`, case by case over what the word decodes to. -/
theorem commandIsTotalAndConsultsRegistersOnly : Obligations.CommandIsTotalAndConsultsRegistersOnly := by
  simp only [Obligations.CommandIsTotalAndConsultsRegistersOnly, accept_command]
  exact ⟨fun _ _ s hw => acceptCommand_of_decode s hw, fun w _ hs => acceptCommand_completes hs w,
    fun _ _ _ _ h hcmd => acceptCommand_congr h hcmd⟩

end Sys2Proof.Machine
end

section
/-! PROOFS. The digest family (43_digest_readout.md): the DIGEST words and the digest they make (R171), the DIGEST reads
that have no value (R172), the formatter (R173). -/

namespace Sys2Proof.Machine

-- A DIGEST word and its read

/-- The bits [32k+31:32k] of a natural number, as a word. -/
def wordAt (a k : Nat) : Word := BitVec.ofNat 32 (a >>> (32 * k))

theorem getLsbD_wordAt (a k : Nat) {j : Nat} (hj : j < 32) : (wordAt a k).getLsbD j = a.testBit (32 * k + j) := by
  rw [wordAt, BitVec.getLsbD_ofNat, Nat.testBit_shiftRight, decide_eq_true hj, Bool.true_and]

theorem wordAt_zero (a : Nat) : wordAt a 0 = BitVec.ofNat 32 a := rfl

/-- The words after the first are those of the number shifted by one word. -/
theorem wordAt_succ (a k : Nat) : wordAt a (k + 1) = wordAt (a / 2 ^ 32) k := by
  rw [wordAt, wordAt, ← Nat.shiftRight_eq_div_pow, ← Nat.shiftRight_add, Nat.mul_succ, Nat.add_comm]

theorem digestWord_of_done {s : State} {c : Consts} {a k : Nat} (hs : s.state = .done)
    (hc : s.rom.const s.wsel = some c) (ha : s.acc = some a) (hk : k < c.bits / 32) :
    digestWord s k = some (wordAt a k) := by
  simp only [digestWord, hs, hc, ha]
  exact if_pos hk

theorem digestWord_of_not_done {s : State} (k : Nat) (hs : s.state ≠ .done) : digestWord s k = none := by
  unfold digestWord
  split
  case h_1 hdone _ _ => exact absurd hdone hs
  case h_2 => rfl

theorem digestWord_of_past_width {s : State} {c : Consts} {k : Nat} (hc : s.rom.const s.wsel = some c)
    (hk : c.bits / 32 ≤ k) : digestWord s k = none := by
  unfold digestWord
  split
  case h_1 hc' _ =>
    cases hc.symm.trans hc'
    exact if_neg (Nat.not_lt.mpr hk)
  case h_2 => rfl

/-- A DIGEST read completes, and its reply is all it writes (R55). -/
theorem accept_readDigest {k : Nat} (hk : k < 32) (s : State) :
    accept (Access.readDigest k) s = .next (addReply (digestWord s k) s) := by
  obtain ⟨-, -, -, hdigest, -⟩ := registerMap
  exact hdigest s k hk

/-- The DIGEST words of every width are inside the register map (R53). -/
theorem const_words_le {r : Rom} {ws : Nibble} {c : Consts} (h : r.const ws = some c) : c.bits / 32 ≤ 32 := by
  obtain ⟨w, -, -, hbits, -⟩ := const_spec h
  exact hbits ▸ w.words_le

theorem const_bits_dvd {r : Rom} {ws : Nibble} {c : Consts} (h : r.const ws = some c) : 32 ∣ c.bits := by
  obtain ⟨w, -, -, hbits, -⟩ := const_spec h
  exact hbits ▸ w.bits_dvd

-- The digest from its words

theorem wordsOf_map_some (ws : List Word) : wordsOf (ws.map some) = some ws := by
  induction ws with
  | nil => rfl
  | cons w ws ih => simp only [List.map_cons, wordsOf, ih, Option.map_some]

/-- The first `n` words of a number are the number modulo 2^(32n). -/
theorem digestOfWords_wordAt (n a : Nat) : digestOfWords ((List.range n).map (wordAt a)) = a % 2 ^ (32 * n) := by
  induction n generalizing a with
  | zero => simp [digestOfWords, Nat.mod_one]
  | succ n ih =>
    have htail : (List.range n).map (wordAt a ∘ Nat.succ) = (List.range n).map (wordAt (a / 2 ^ 32)) :=
      List.map_congr_left fun k _ => wordAt_succ a k
    rw [List.range_succ_eq_map, List.map_cons, List.map_map, htail, digestOfWords, ih, wordAt_zero,
      BitVec.toNat_ofNat, Config.digestWordBits, ← Nat.mod_mul, ← Nat.pow_add, Nat.mul_succ, Nat.add_comm]

/-- In DONE every DIGEST word of the width has a value: its word of ACC. -/
theorem wordsOf_digestWord_of_done {s : State} {c : Consts} {a : Nat} (hs : s.state = .done)
    (hc : s.rom.const s.wsel = some c) (ha : s.acc = some a) :
    wordsOf ((List.range (c.bits / 32)).map (digestWord s)) = some ((List.range (c.bits / 32)).map (wordAt a)) := by
  have hwords :
      (List.range (c.bits / 32)).map (digestWord s) = ((List.range (c.bits / 32)).map (wordAt a)).map some := by
    rw [List.map_map]
    exact List.map_congr_left fun k hk => digestWord_of_done hs hc ha (List.mem_range.mp hk)
  rw [hwords, wordsOf_map_some]

/-- The W/32 words of a value of W bits put it together again (R171). -/
theorem digestOfWords_of_lt {r : Rom} {ws : Nibble} {c : Consts} {a : Nat} (hc : r.const ws = some c)
    (ha : a < 2 ^ c.bits) : digestOfWords ((List.range (c.bits / 32)).map (wordAt a)) = a := by
  rw [digestOfWords_wordAt, Nat.mul_div_cancel' (const_bits_dvd hc), Nat.mod_eq_of_lt ha]

/-- Settles O36: a DIGEST word is its 32 bits of ACC, and ACC, below 2^W, is the sum of its W/32 words. -/
theorem digestWordsAreTheDigest : Obligations.DigestWordsAreTheDigest := by
  refine ⟨fun s c a k hs hc ha hk => ?_, fun s hinv hs => ?_⟩
  · have hword := digestWord_of_done hs hc ha hk
    refine ⟨wordAt a k, hword, fun j hj => getLsbD_wordAt a k hj, ?_⟩
    rw [← hword]
    exact accept_readDigest (hk.trans_le (const_words_le hc)) s
  · obtain ⟨-, -, c, a, hc, ha, hlt⟩ := hinv.active ((holdsValue_iff _).mpr (.inr (.inr hs)))
    refine ⟨c, a, (List.range (c.bits / 32)).map (wordAt a), hc, ha, wordsOf_digestWord_of_done hs hc ha, ?_,
      digestOfWords_of_lt hc hlt⟩
    rw [List.length_map, List.length_range]

/-- Settles O37: both cases by what `digestWord` needs for a value, the read by its reply. -/
theorem digestOutsideDoneHasNoValue : Obligations.DigestOutsideDoneHasNoValue := by
  refine ⟨fun s k hs => digestWord_of_not_done k hs, fun s c k _ hc hk => digestWord_of_past_width hc hk,
    fun s k hk hnone => ?_⟩
  rw [accept_readDigest hk, hnone]
  rfl

-- The formatter

theorem length_hexDigits (hc : HexCase) (n d : Nat) : (hexDigits hc n d).length = n := by
  induction n with
  | zero => rfl
  | succ n ih => rw [hexDigits, List.length_cons, ih]

/-- Character `i` is the digit with weight 16^(n-1-i): most significant first (R173). -/
theorem getElem?_hexDigits (hc : HexCase) {n i : Nat} (d : Nat) (hi : i < n) :
    (hexDigits hc n d)[i]? = some (hexDigit hc (d / 16 ^ (n - 1 - i) % 16)) := by
  induction n generalizing i with
  | zero => exact absurd hi (Nat.not_lt_zero i)
  | succ n ih =>
    cases i with
    | zero => rfl
    | succ i =>
      have hweight : n + 1 - 1 - (i + 1) = n - 1 - i := by omega
      rw [hexDigits, List.getElem?_cons_succ, ih (Nat.lt_of_succ_lt_succ hi), hweight]

/-- Settles O56: a hexadecimal digit is 4 bits, so the weight 16^(W/4-1-i) is 2^(W-4-4i). -/
theorem formatDigits : Obligations.FormatDigits := by
  refine ⟨rfl, rfl, fun hc W d hW => ⟨length_hexDigits hc (W / 4) d, fun i hi => ?_⟩⟩
  have hweight : 16 ^ (W / 4 - 1 - i) = 2 ^ (W - 4 - 4 * i) := by
    rw [show W - 4 - 4 * i = 4 * (W / 4 - 1 - i) by omega, Nat.pow_mul]
  rw [formatDigest, getElem?_hexDigits hc d hi, hweight]

end Sys2Proof.Machine
end

section
/-! PROOFS. The exceptions family (60_exceptions.md): the two setup errors of INIT (R201, R202), SEQUENCE (R204), the first
error that stays until INIT, CLEAR or reset (R203), and the order of the checks (R206). -/

namespace Sys2Proof

-- The codes CONST fails at

theorem Width.ofCode_eq_none_iff (ws : Nibble) : Width.ofCode ws = none ↔ 6 ≤ ws.toNat := by
  revert ws
  decide

/-- `CONST(ws)` fails where the code selects no width or the ROM has no entry for its width (R101). -/
theorem Rom.const_eq_none_iff (r : Rom) (ws : Nibble) :
    r.const ws = none ↔ 6 ≤ ws.toNat ∨ ∃ w, Width.ofCode ws = some w ∧ r.entry w = none := by
  rw [← Width.ofCode_eq_none_iff, Rom.const]
  cases Width.ofCode ws <;> simp

-- The words of INIT

/-- The fields of INIT's encoding are OP = 1 and its two codes; the other bits are 0 (R71, R73). -/
theorem encode_init_fields (v ws : Nibble) :
    opField (encode (.init v ws)) = 1 ∧ varField (encode (.init v ws)) = v ∧ wselField (encode (.init v ws)) = ws ∧
      rsvField (encode (.init v ws)) = 0 ∧ byteField (encode (.init v ws)) = 0 := by
  have hplaced : encode (.init v ws) =
      (1 : Nibble).setWidth 32 <<< 28 ||| v.setWidth 32 <<< 24 ||| ws.setWidth 32 <<< 20 := rfl
  simp (disch := omega) only [hplaced, opField, varField, wselField, rsvField, byteField, BitVec.extractLsb'_or,
    Machine.extractLsb'_placed_same, Machine.extractLsb'_placed_disjoint]
  simp

/-- The decoder's test leaves no bit of an INIT word free but its two codes. -/
theorem encode_init_of_decode {w : Word} {v ws : Nibble} (h : decode w = .ok (.init v ws)) :
    encode (.init v ws) = w := by
  obtain ⟨-, -, hi⟩ | ⟨hop, hzero, hi⟩ | ⟨-, -, hi⟩ | ⟨-, -, hi⟩ | ⟨-, -, hi⟩ := decode_ok_cases h <;> cases hi
  obtain ⟨hrsv, hbyte⟩ := (low20_eq_zero_iff w).mp hzero
  obtain ⟨hop', hvar', hwsel', hrsv', hbyte'⟩ := encode_init_fields (varField w) (wselField w)
  exact eq_of_fields (hop'.trans hop.symm) hvar' hwsel' (hrsv'.trans hrsv.symm) (hbyte'.trans hbyte.symm)

end Sys2Proof

namespace Sys2Proof.Machine

-- The setup errors of INIT

/-- Settles O17: a failed lookup is a code of no width or an absent entry, which a build leaves out. -/
theorem initUnsupportedWidth : Obligations.InitUnsupportedWidth := by
  refine ⟨Rom.const_eq_none_iff, fun b ws => ?_, fun s v ws hc => execInit_of_unsupportedWidth v hc⟩
  simp only [Rom.const_eq_none_iff, Build.rom_entry_eq_none_iff]

/-- Settles O18: with the width supported, INIT looks at the variant. -/
theorem initUnsupportedVariant : Obligations.InitUnsupportedVariant :=
  fun _ _ _ _ hc hv => execInit_of_unsupportedVariant hc hv

-- FOLD and FINISH where they have no input to take

theorem acceptsInput_eq_false_iff (q : SeqState) :
    q.acceptsInput = false ↔ q = .idle ∨ q = .done ∨ q = .error := by
  cases q <;> simp [SeqState.acceptsInput]

section Input

variable {i : Instr} {s t : State} (hi : i = .finish ∨ ∃ b, i = .fold b)
include hi

/-- Outside SEEDED and FOLDING, FOLD and FINISH signal SEQUENCE (R145, R148). -/
theorem exec_input_of_not_accepts (hs : s.state.acceptsInput = false) : exec i s = .next (signal .sequence s) := by
  obtain rfl | ⟨b, rfl⟩ := hi
  · exact execFinish_of_not_accepts hs
  · exact execFold_of_not_accepts b hs

/-- In ERROR, FOLD and FINISH leave the earlier error (R204). -/
theorem exec_input_of_error (hs : s.state = .error) : exec i s = .next s := by
  rw [exec_input_of_not_accepts hi ((acceptsInput_eq_false_iff _).mpr (.inr (.inr hs))), signal_of_error hs]

/-- In SEEDED and FOLDING, FOLD and FINISH raise no error (R145, R148). -/
theorem exec_input_keeps_err (hs : s.state.acceptsInput = true) (h : exec i s = .next t) : t.err = s.err := by
  obtain rfl | ⟨b, rfl⟩ := hi
  · cases (execFinish_of_accepts hs).symm.trans h
    rfl
  · obtain ⟨-, c, a, -, -, rfl⟩ | ⟨hs', -⟩ := execFold_cases h
    · rfl
    · cases hs.symm.trans hs'

end Input

/-- Settles O24: outside input the two commands are `signal`, which writes nothing in ERROR. -/
theorem sequenceErrorOutsideInput : Obligations.SequenceErrorOutsideInput := by
  refine fun s i hi => ⟨fun hs => ?_, exec_input_of_error hi⟩
  have hne : s.state ≠ .error := by obtain h | h := hs <;> simp [h]
  have hin : s.state.acceptsInput = false := (acceptsInput_eq_false_iff _).mpr (hs.imp_right .inl)
  rw [exec_input_of_not_accepts hi hin, signal_of_not_error hne]

-- What leaves ERROR

section Error

variable {s t : State}

/-- In ERROR every command but INIT and CLEAR changes nothing (R141, R203). -/
theorem exec_of_error {i : Instr} (hs : s.state = .error) (h : exec i s = .next t) :
    t = s ∨ i = .clear ∨ ∃ v ws, i = .init v ws := by
  have hinput (hi : i = .finish ∨ ∃ b, i = .fold b) : t = s := by
    cases (exec_input_of_error hi hs).symm.trans h
    rfl
  cases i with
  | nop => cases h; exact .inl rfl
  | init v ws => exact .inr (.inr ⟨v, ws, rfl⟩)
  | fold b => exact .inl (hinput (.inr ⟨b, rfl⟩))
  | finish => exact .inl (hinput (.inl rfl))
  | clear => exact .inr (.inl rfl)

/-- In ERROR a command word changes nothing, or it is the encoding of an INIT or of CLEAR. -/
theorem acceptCommand_of_error {w : Word} (hs : s.state = .error) (h : acceptCommand w s = .next t) :
    t = s ∨ ∃ i, w = encode i ∧ (i = .clear ∨ ∃ v ws, i = .init v ws) := by
  obtain ⟨i, hw, hexec⟩ | ⟨why, -, rfl⟩ := acceptCommand_cases h
  · obtain rfl | rfl | ⟨v, ws, rfl⟩ := exec_of_error hs hexec
    · exact .inl rfl
    · exact .inr ⟨.clear, (decode_eq_clear_iff w).mp hw, .inl rfl⟩
    · exact .inr ⟨.init v ws, (encode_init_of_decode hw).symm, .inr ⟨v, ws, rfl⟩⟩
  · exact .inl (signal_of_error hs)

/-- In ERROR an access leaves the registers, or it writes an INIT or a CLEAR to CMD. -/
theorem accept_of_error {a : Access} (hs : s.state = .error) (h : accept a s = .next t) :
    t.SameEngine s ∨ ∃ i, a = Access.command (encode i) ∧ (i = .clear ∨ ∃ v ws, i = .init v ws) := by
  obtain ⟨w, rfl, hcmd⟩ | ⟨w, -, -, rfl⟩ | ⟨-, rfl⟩ := accept_cases h
  · obtain rfl | ⟨i, rfl, hi⟩ := acceptCommand_of_error hs hcmd
    · exact .inl (State.SameEngine.refl t)
    · exact .inr ⟨i, rfl, hi⟩
  · exact .inl (State.SameEngine.refl t)
  · exact .inl ⟨rfl, rfl, rfl, rfl, rfl, rfl⟩

/-- A step from ERROR leaves the registers, or it is a reset, an INIT or a CLEAR (R203). -/
theorem step_of_error (hs : s.state = .error) (h : step s = .next t) :
    t.SameEngine s ∨ s.resetReq = true ∨
      ∃ (i : Instr) (rest : List Access), s.offered = Access.command (encode i) :: rest ∧
        (i = .clear ∨ ∃ v ws, i = .init v ws) := by
  obtain ⟨hreset, -⟩ | ⟨-, -, rfl⟩ | ⟨a, rest, -, hheld, hacc⟩ := step_cases h
  · exact .inr (.inl hreset)
  · exact .inl (State.SameEngine.refl t)
  · obtain hsame | ⟨i, rfl, hi⟩ := accept_of_error (s := s.holding rest) hs hacc
    · exact .inl (hsame.trans (sameEngine_holding s rest))
    · exact .inr (.inr ⟨i, rest, hheld, hi⟩)

end Error

/-- INIT starts a computation without an error, or fails with one of its two errors, whatever the state held (R143). -/
theorem execInit_replaces_error (v ws : Nibble) (s : State) :
    ∃ t, execInit v ws s = .next t ∧ (t.state = .seeded ∧ t.err = .none ∨
      t.state = .error ∧ t.acc = none ∧ (t.err = .unsupportedWidth ∨ t.err = .unsupportedVariant)) := by
  obtain ⟨t, h⟩ := execInit_completes v ws s
  refine ⟨t, h, ?_⟩
  obtain ⟨-, rfl⟩ | ⟨c, -, -, rfl⟩ | ⟨c, -, -, rfl⟩ := execInit_cases h
  · exact .inr ⟨rfl, rfl, .inl rfl⟩
  · exact .inr ⟨rfl, rfl, .inr rfl⟩
  · exact .inl ⟨rfl, rfl⟩

/-- Settles O25: the commands that can raise an error are `signal` or a failed INIT, and in ERROR `signal` writes nothing. -/
theorem firstErrorIsSticky : Obligations.FirstErrorIsSticky := by
  refine ⟨fun s i hi hseeded hfolding => ?_, fun s w why hw => acceptCommand_of_illegal s hw,
    fun e s hs => signal_of_not_error hs, fun e s hs => signal_of_error hs,
    fun s v ws _ => execInit_replaces_error v ws s, fun s t hs h => ?_⟩
  · have hin : ¬ s.state.acceptsInput = true := fun hin => ((acceptsInput_iff _).mp hin).elim hseeded hfolding
    exact exec_input_of_not_accepts hi (Bool.eq_false_of_not_eq_true hin)
  · obtain hsame | hleaves := step_of_error hs h
    · exact .inl ⟨hsame.state.trans hs, hsame.err, hsame.acc, hsame.var, hsame.wsel⟩
    · exact .inr hleaves

-- The order of the checks

theorem signal_err_of_not_error {e : ErrCode} {s : State} (hs : s.state ≠ .error) : (signal e s).err = e := by
  rw [signal_of_not_error hs]

/-- Settles O27: each check's error by the lemma for its failure; past the decoder and INIT, the state decides. -/
theorem errorChecksInOrder : Obligations.ErrorChecksInOrder := by
  refine ⟨fun w s t why hw hs h => ?_, fun s t v ws hc h => ?_, fun s t v ws hc hv h => ?_, fun s t i hi hs h => ?_⟩
  · cases (acceptCommand_of_illegal s hw).symm.trans h
    exact signal_err_of_not_error hs
  · cases (execInit_of_unsupportedWidth v hc).symm.trans h
    rfl
  · obtain ⟨c, hc⟩ := Option.ne_none_iff_exists'.mp hc
    cases (execInit_of_unsupportedVariant hc hv).symm.trans h
    rfl
  · cases hin : s.state.acceptsInput with
    | true => exact .inl ⟨exec_input_keeps_err hi hin h, (acceptsInput_iff _).mp hin⟩
    | false =>
      cases (exec_input_of_not_accepts hi hin).symm.trans h
      obtain hidle | hdone | herror := (acceptsInput_eq_false_iff _).mp hin
      · exact .inr ⟨signal_err_of_not_error hs, .inl hidle⟩
      · exact .inr ⟨signal_err_of_not_error hs, .inr hdone⟩
      · exact absurd herror hs

end Sys2Proof.Machine
end

section
/-! PROOFS. The reset family (70_reset_and_hazards.md): a pending reset is taken before any held access, and what it leaves
in the registers, the ROM and the held accesses (R240). -/

namespace Sys2Proof.Machine

/-- With a reset pending a step takes it, whatever is held (R240). -/
theorem step_of_reset {s : State} (hreset : s.resetReq = true) : step s = .next (takeReset s) := by
  simp [step, hreset]

/-- An access is held after the reset when it was held before and is no command (R240; log entry 7). -/
theorem mem_takeReset_offered {a : Access} {s : State} :
    a ∈ (takeReset s).offered ↔ a ∈ s.offered ∧ a.isCommand = false := by
  simp

/-- Settles O8: the step is the reset, which writes the reset registers and filters the commands out of the held accesses. -/
theorem platformResetTakesRegistersBack : Obligations.PlatformResetTakesRegistersBack := by
  intro s hreset
  refine ⟨takeReset s, step_of_reset hreset, takeReset_state s, takeReset_err s, takeReset_var s, takeReset_wsel s,
    takeReset_acc s, takeReset_rom s, fun a ha => ?_⟩
  obtain ⟨-, hnot⟩ := mem_takeReset_offered.mp ha
  exact hnot

end Sys2Proof.Machine
end

section
/-! PROOFS. Decoding and encoding are inverse to each other (30_encoding.md R80): the fields of FOLD's word, and the two
directions. -/

namespace Sys2Proof

/-- The fields of FOLD's encoding are OP = 2 and its byte; the other bits are 0 (R71, R73). -/
theorem encode_fold_fields (b : Byte) :
    opField (encode (.fold b)) = 2 ∧ varField (encode (.fold b)) = 0 ∧ wselField (encode (.fold b)) = 0 ∧
      rsvField (encode (.fold b)) = 0 ∧ byteField (encode (.fold b)) = b := by
  have hplaced : encode (.fold b) = (2 : Nibble).setWidth 32 <<< 28 ||| b.setWidth 32 <<< 0 := by
    rw [BitVec.shiftLeft_zero]
    rfl
  simp (disch := omega) only [hplaced, opField, varField, wselField, rsvField, byteField, BitVec.extractLsb'_or,
    Machine.extractLsb'_placed_same, Machine.extractLsb'_placed_disjoint]
  simp

/-- A word with INIT's OP and its must-be-zero bits at 0 is an INIT of its own codes (R80). -/
theorem decode_of_init_fields {w : Word} (hop : opField w = 1) (hrsv : rsvField w = 0) (hbyte : byteField w = 0) :
    decode w = .ok (.init (varField w) (wselField w)) := by
  have hzero : w.extractLsb' 0 20 = 0 := (low20_eq_zero_iff w).mpr ⟨hrsv, hbyte⟩
  simp [decode, hop, hzero]

/-- A word with FOLD's OP and its must-be-zero bits at 0 is a FOLD of its own byte (R80). -/
theorem decode_of_fold_fields {w : Word} (hop : opField w = 2) (hvar : varField w = 0) (hwsel : wselField w = 0)
    (hrsv : rsvField w = 0) : decode w = .ok (.fold (byteField w)) := by
  have hzero : w.extractLsb' 8 20 = 0 := (middle20_eq_zero_iff w).mpr ⟨hvar, hwsel, hrsv⟩
  simp [decode, hop, hzero]

theorem decode_encode (i : Instr) : decode (encode i) = .ok i := by
  cases i with
  | nop => rfl
  | init v ws =>
    obtain ⟨hop, hvar, hwsel, hrsv, hbyte⟩ := encode_init_fields v ws
    rw [decode_of_init_fields hop hrsv hbyte, hvar, hwsel]
  | fold b =>
    obtain ⟨hop, hvar, hwsel, hrsv, hbyte⟩ := encode_fold_fields b
    rw [decode_of_fold_fields hop hvar hwsel hrsv, hbyte]
  | finish => rfl
  | clear => rfl

/-- The decoder's test leaves no bit of a FOLD word free but its byte. -/
theorem encode_fold_of_decode {w : Word} {b : Byte} (h : decode w = .ok (.fold b)) : encode (.fold b) = w := by
  obtain ⟨-, -, hi⟩ | ⟨-, -, hi⟩ | ⟨hop, hzero, hi⟩ | ⟨-, -, hi⟩ | ⟨-, -, hi⟩ := decode_ok_cases h <;> cases hi
  obtain ⟨hvar, hwsel, hrsv⟩ := (middle20_eq_zero_iff w).mp hzero
  obtain ⟨hop', hvar', hwsel', hrsv', hbyte'⟩ := encode_fold_fields (byteField w)
  exact eq_of_fields (hop'.trans hop.symm) (hvar'.trans hvar.symm) (hwsel'.trans hwsel.symm) (hrsv'.trans hrsv.symm)
    hbyte'

theorem decode_eq_finish_iff (w : Word) : decode w = .ok .finish ↔ w = 0x30000000 :=
  ⟨eq_pattern_of_decode rfl, by rintro rfl; rfl⟩

theorem encode_of_decode {w : Word} {i : Instr} (h : decode w = .ok i) : encode i = w := by
  cases i with
  | nop => exact ((decode_eq_nop_iff w).mp h).symm
  | init v ws => exact encode_init_of_decode h
  | fold b => exact encode_fold_of_decode h
  | finish => exact ((decode_eq_finish_iff w).mp h).symm
  | clear => exact ((decode_eq_clear_iff w).mp h).symm

/-- Settles O1: the fields of an encoding are the operands, with the must-be-zero bits at 0, and that is what `decode` reads. -/
theorem decodeInvertsEncode : Obligations.DecodeInvertsEncode := decode_encode

/-- Settles O2: an accepted word has the fields of the encoding of what it decodes to. -/
theorem acceptedWordIsItsEncoding : Obligations.AcceptedWordIsItsEncoding := fun _ _ h => encode_of_decode h

/-- Settles O5: the words are closed terms, and `decode` computes. -/
theorem writtenOutWordsDecode : Obligations.WrittenOutWordsDecode := by
  unfold Obligations.WrittenOutWordsDecode
  decide

/-- Settles O6, by the width of a code and the codes with none. -/
theorem widthOfCode : Obligations.WidthOfCode := ⟨fun _ _ h => Width.bits_of_ofCode h, Width.ofCode_eq_none_iff⟩

end Sys2Proof
end

section
/-! PROOFS. The register invariant (10_state.md R30): what each write of the registers must meet to keep it, that every
command, access and step does, and the reset. -/

namespace Sys2Proof.Machine

-- One rule for each write of the registers

theorem State.SameEngine.symm {s u : State} (h : s.SameEngine u) : u.SameEngine s :=
  ⟨h.state.symm, h.err.symm, h.var.symm, h.wsel.symm, h.acc.symm, h.rom.symm⟩

/-- The invariant speaks of the registers and the ROM alone. -/
theorem State.SameEngine.inv {s u : State} (h : s.SameEngine u) (hs : s.Inv) : u.Inv := by
  obtain ⟨idle, active, error, seeded0, seededBasis⟩ := hs
  rw [h.state, h.err, h.var, h.wsel, h.acc] at idle
  rw [h.state, h.err, h.var, h.wsel, h.acc, h.rom] at active
  rw [h.state, h.err, h.acc] at error
  rw [h.state, h.var, h.acc] at seeded0
  rw [h.state, h.var, h.wsel, h.acc, h.rom] at seededBasis
  exact ⟨idle, active, error, seeded0, seededBasis⟩

/-- IDLE is the reset registers. -/
theorem inv_of_idle {s : State} (hstate : s.state = .idle) (herr : s.err = .none) (hvar : s.var = 0) (hwsel : s.wsel = 0)
    (hacc : s.acc = none) : s.Inv where
  idle := fun _ => ⟨herr, hvar, hwsel, hacc⟩
  active := by simp [hstate, SeqState.holdsValue]
  error := by simp [hstate]
  seeded0 := by simp [hstate]
  seededBasis := by simp [hstate]

/-- ERROR is an error code and no accumulator, whatever VAR and WSEL hold. -/
theorem inv_of_error {s : State} (hstate : s.state = .error) (herr : s.err ≠ .none) (hacc : s.acc = none) : s.Inv where
  idle := by simp [hstate]
  active := by simp [hstate, SeqState.holdsValue]
  error := fun _ => ⟨herr, hacc⟩
  seeded0 := by simp [hstate]
  seededBasis := by simp [hstate]

theorem inv_clearRegisters (s : State) : (clearRegisters s).Inv := inv_of_idle rfl rfl rfl rfl rfl

theorem inv_takeReset (s : State) : (takeReset s).Inv := inv_of_idle rfl rfl rfl rfl rfl

theorem inv_failInit {e : ErrCode} (he : e ≠ .none) (v ws : Nibble) (s : State) : (failInit e v ws s).Inv :=
  inv_of_error rfl he rfl

theorem inv_signal {e : ErrCode} (he : e ≠ .none) {s : State} (hs : s.Inv) : (signal e s).Inv := by
  by_cases herror : s.state = .error
  · rwa [signal_of_error herror]
  · rw [signal_of_not_error herror]
    exact inv_of_error rfl he rfl

/-- A computation of a supported variant and width starts with ACC at its seed, below 2^W (R144). -/
theorem inv_startComputation {v ws : Nibble} {s : State} {c : Consts} (hc : s.rom.const ws = some c) (hv : v.toNat < 3) :
    (startComputation v ws (seed c v) s).Inv where
  idle := by simp
  active := fun _ => ⟨rfl, Nat.le_of_lt_succ hv, c, seed c v, hc, rfl, seed_lt hc v⟩
  error := by simp
  seeded0 := fun _ hvar => congrArg some (if_pos hvar)
  seededBasis := fun _ hvar => by
    refine ⟨c, hc, congrArg some (if_neg ?_)⟩
    rintro rfl
    simp at hvar

/-- FOLDING asks for an accumulator below 2^W, which every fold step gives (R27). -/
theorem inv_storeFold {s : State} (hs : s.Inv) (hin : s.state.acceptsInput = true) {c : Consts}
    (hc : s.rom.const s.wsel = some c) (a : Nat) (b : Byte) : (storeFold (foldStep c s.var a b) s).Inv where
  idle := by simp
  active := fun _ => by
    obtain ⟨herr, hvar, -⟩ := hs.active (holdsValue_of_acceptsInput hin)
    exact ⟨herr, hvar, c, foldStep c s.var a b, hc, rfl, foldStep_lt c s.var b⟩
  error := by simp
  seeded0 := by simp
  seededBasis := by simp

/-- DONE asks for what SEEDED and FOLDING hold. -/
theorem inv_markDone {s : State} (hs : s.Inv) (hin : s.state.acceptsInput = true) : (markDone s).Inv where
  idle := by simp
  active := fun _ => hs.active (holdsValue_of_acceptsInput hin)
  error := by simp
  seeded0 := by simp
  seededBasis := by simp

-- Commands, accesses and steps

/-- Every command keeps the invariant. -/
theorem exec_inv {i : Instr} {s t : State} (hs : s.Inv) (h : exec i s = .next t) : t.Inv := by
  cases i with
  | nop =>
    cases h
    exact hs
  | init v ws =>
    obtain ⟨-, rfl⟩ | ⟨c, -, -, rfl⟩ | ⟨c, hc, hv, rfl⟩ := execInit_cases h
    · exact inv_failInit (by decide) v ws s
    · exact inv_failInit (by decide) v ws s
    · exact inv_startComputation hc hv
  | fold b =>
    obtain ⟨hin, c, a, hc, -, rfl⟩ | ⟨-, rfl⟩ := execFold_cases h
    · exact inv_storeFold hs hin hc a b
    · exact inv_signal (by decide) hs
  | finish =>
    obtain ⟨hin, rfl⟩ | ⟨-, rfl⟩ := execFinish_cases h
    · exact inv_markDone hs hin
    · exact inv_signal (by decide) hs
  | clear =>
    cases h
    exact inv_clearRegisters s

theorem acceptCommand_inv {w : Word} {s t : State} (hs : s.Inv) (h : acceptCommand w s = .next t) : t.Inv := by
  obtain ⟨i, -, hexec⟩ | ⟨why, -, rfl⟩ := acceptCommand_cases h
  · exact exec_inv hs hexec
  · exact inv_signal (by decide) hs

theorem accept_inv {a : Access} {s t : State} (hs : s.Inv) (h : accept a s = .next t) : t.Inv := by
  obtain ⟨w, -, hcmd⟩ | ⟨w, -, -, rfl⟩ | ⟨-, rfl⟩ := accept_cases h
  · exact acceptCommand_inv hs hcmd
  · exact hs
  · exact (sameEngine_addReply _ s).inv hs

/-- The held accesses are no part of the invariant. -/
theorem inv_holding {s : State} (hs : s.Inv) (held : List Access) : (s.holding held).Inv :=
  (sameEngine_holding s held).symm.inv hs

theorem step_inv {s t : State} (hs : s.Inv) (h : step s = .next t) : t.Inv := by
  obtain ⟨-, rfl⟩ | ⟨-, -, rfl⟩ | ⟨a, rest, -, -, hacc⟩ := step_cases h
  · exact inv_takeReset s
  · exact hs
  · exact accept_inv (inv_holding hs rest) hacc

theorem inv_resetOf (b : Build) : (State.resetOf b).Inv := inv_of_idle rfl rfl rfl rfl rfl

/-- Settles O12: reset is IDLE, and each command and step writes the registers by one of the named operations, each of
which keeps the invariant. -/
theorem stepKeepsRegisterInvariant : Obligations.StepKeepsRegisterInvariant :=
  ⟨inv_resetOf, fun _ _ _ hs h => exec_inv hs h, fun _ _ hs h => step_inv hs h⟩

/-- Settles O11: `State.reset` is the reset of the default build. -/
theorem registerInvariantAtReset : Obligations.RegisterInvariantAtReset := ⟨inv_resetOf Build.default, inv_resetOf⟩

end Sys2Proof.Machine
end

section
/-! PROOFS. The transitions of the commands: FOLD and FINISH in every STATE (42_commands.md R145, R148), the transition table
(R141), what a command leaves unchanged (10_state.md R32, R34), and where VAR and WSEL change (R23, R24). -/

namespace Sys2Proof.Machine

-- FOLD, FINISH and INIT where they succeed

/-- Settles O21: in SEEDED and FOLDING the invariant gives FOLD both its operands, and a fold step stays below 2^W. -/
theorem foldCompletesWhileFolding : Obligations.FoldCompletesWhileFolding := by
  intro s b hs hin
  have hin := (acceptsInput_iff _).mpr hin
  obtain ⟨-, -, c, a, hc, ha, -⟩ := hs.active (holdsValue_of_acceptsInput hin)
  exact ⟨c, foldStep c s.var a b, hc, foldStep_lt c s.var b, execFold_of_accepts b hin hc ha⟩

/-- Settles O22: FINISH marks the end of the input in SEEDED and FOLDING, and elsewhere is a SEQUENCE error. -/
theorem finishMarksDone : Obligations.FinishMarksDone := by
  refine ⟨fun s hin => execFinish_of_accepts ((acceptsInput_iff _).mpr hin), fun s hs => ?_,
    fun s hs => exec_input_of_error (.inl rfl) hs, decode_eq_finish_iff⟩
  obtain ⟨hsequence, -⟩ := sequenceErrorOutsideInput s .finish (.inl rfl)
  exact hsequence hs

/-- Settles O30: INIT writes all five registers, from its codes and the ROM alone. -/
theorem initStartsFresh : Obligations.InitStartsFresh := by
  intro s u v ws c hrom hv hc
  have hv := Nat.lt_succ_of_le hv
  exact ⟨_, _, execInit_of_supported hc hv, execInit_of_supported (hrom ▸ hc) hv, rfl, rfl, rfl, rfl, rfl, rfl, rfl, hrom⟩

-- The transition table

theorem signal_err (e : ErrCode) (s : State) : (signal e s).err = if s.state = .error then s.err else e := by
  unfold signal
  split <;> rfl

theorem transitionTable_nop (err : ErrCode) (q : SeqState) : transitionTable err q .nop = (q, err) := by
  cases q <;> rfl

theorem transitionTable_initSupported (err : ErrCode) (q : SeqState) :
    transitionTable err q .initSupported = (.seeded, .none) := by
  cases q <;> rfl

theorem transitionTable_initBadWidth (err : ErrCode) (q : SeqState) :
    transitionTable err q .initBadWidth = (.error, .unsupportedWidth) := by
  cases q <;> rfl

theorem transitionTable_initBadVariant (err : ErrCode) (q : SeqState) :
    transitionTable err q .initBadVariant = (.error, .unsupportedVariant) := by
  cases q <;> rfl

theorem transitionTable_fold (err : ErrCode) (q : SeqState) : transitionTable err q .fold =
    if q.acceptsInput then (.folding, err) else (.error, if q = .error then err else .sequence) := by
  cases q <;> rfl

theorem transitionTable_finish (err : ErrCode) (q : SeqState) : transitionTable err q .finish =
    if q.acceptsInput then (.done, err) else (.error, if q = .error then err else .sequence) := by
  cases q <;> rfl

theorem transitionTable_clear (err : ErrCode) (q : SeqState) : transitionTable err q .clear = (.idle, .none) := by
  cases q <;> rfl

theorem transitionTable_illegalWord (err : ErrCode) (q : SeqState) :
    transitionTable err q .illegalWord = (.error, if q = .error then err else .illegalCommand) := by
  cases q <;> rfl

/-- INIT's three outcomes are the three INIT columns of the table. -/
theorem execInit_transition {w : Word} {v ws : Nibble} {s t : State} (hw : decode w = .ok (.init v ws))
    (h : execInit v ws s = .next t) : (t.state, t.err) = transitionTable s.err s.state (commandClass s.rom w) := by
  obtain ⟨hc, rfl⟩ | ⟨c, hc, hv, rfl⟩ | ⟨c, hc, hv, rfl⟩ := execInit_cases h
  · have hclass : commandClass s.rom w = .initBadWidth := by simp [commandClass, hw, hc]
    rw [hclass, transitionTable_initBadWidth, failInit_state, failInit_err]
  · have hclass : commandClass s.rom w = .initBadVariant := by simp [commandClass, hw, hc, Nat.not_le_of_lt hv]
    rw [hclass, transitionTable_initBadVariant, failInit_state, failInit_err]
  · have hclass : commandClass s.rom w = .initSupported := by simp [commandClass, hw, hc, Nat.le_of_lt_succ hv]
    rw [hclass, transitionTable_initSupported, startComputation_state, startComputation_err]

/-- A legal command's next STATE and ERR are its column's entry (R141). -/
theorem exec_transition {w : Word} {i : Instr} {s t : State} (hw : decode w = .ok i) (h : exec i s = .next t) :
    (t.state, t.err) = transitionTable s.err s.state (commandClass s.rom w) := by
  cases i with
  | nop =>
    have hclass : commandClass s.rom w = .nop := by simp only [commandClass, hw]
    cases h
    rw [hclass, transitionTable_nop]
  | init v ws => exact execInit_transition hw h
  | fold b =>
    have hclass : commandClass s.rom w = .fold := by simp only [commandClass, hw]
    rw [hclass, transitionTable_fold]
    obtain ⟨hin, c, a, -, -, rfl⟩ | ⟨hin, rfl⟩ := execFold_cases h
    · simp [hin]
    · simp [hin, signal_err]
  | finish =>
    have hclass : commandClass s.rom w = .finish := by simp only [commandClass, hw]
    rw [hclass, transitionTable_finish]
    obtain ⟨hin, rfl⟩ | ⟨hin, rfl⟩ := execFinish_cases h
    · simp [hin]
    · simp [hin, signal_err]
  | clear =>
    have hclass : commandClass s.rom w = .clear := by simp only [commandClass, hw]
    cases h
    rw [hclass, transitionTable_clear, clearRegisters_state, clearRegisters_err]

theorem acceptCommand_transition {w : Word} {s t : State} (h : acceptCommand w s = .next t) :
    (t.state, t.err) = transitionTable s.err s.state (commandClass s.rom w) := by
  obtain ⟨i, hw, hexec⟩ | ⟨why, hw, rfl⟩ := acceptCommand_cases h
  · exact exec_transition hw hexec
  · have hclass : commandClass s.rom w = .illegalWord := by simp only [commandClass, hw]
    rw [hclass, transitionTable_illegalWord, signal_state, signal_err]

/-- Settles O26: the command completes from a state of R30, and each outcome is the entry of the word's column. -/
theorem transitionTableHolds : Obligations.TransitionTableHolds := by
  intro w s hs
  obtain ⟨t, h⟩ := acceptCommand_completes hs w
  exact ⟨t, h, acceptCommand_transition h⟩

-- What a command leaves unchanged

/-- A command leaves VAR and WSEL, or it is an INIT, which writes its codes, or CLEAR, which writes 0 (R23, R24). -/
theorem exec_var_wsel {i : Instr} {s t : State} (h : exec i s = .next t) :
    (t.var = s.var ∧ t.wsel = s.wsel) ∨ (∃ v ws, i = .init v ws ∧ t.var = v ∧ t.wsel = ws) ∨
      (i = .clear ∧ t.var = 0 ∧ t.wsel = 0) := by
  cases i with
  | nop =>
    cases h
    exact .inl ⟨rfl, rfl⟩
  | init v ws =>
    refine .inr (.inl ⟨v, ws, rfl, ?_⟩)
    obtain ⟨-, rfl⟩ | ⟨c, -, -, rfl⟩ | ⟨c, -, -, rfl⟩ := execInit_cases h <;> exact ⟨rfl, rfl⟩
  | fold b =>
    obtain ⟨-, c, a, -, -, rfl⟩ | ⟨-, rfl⟩ := execFold_cases h
    · exact .inl ⟨rfl, rfl⟩
    · exact .inl ⟨signal_var .sequence s, signal_wsel .sequence s⟩
  | finish =>
    obtain ⟨-, rfl⟩ | ⟨-, rfl⟩ := execFinish_cases h
    · exact .inl ⟨rfl, rfl⟩
    · exact .inl ⟨signal_var .sequence s, signal_wsel .sequence s⟩
  | clear =>
    cases h
    exact .inr (.inr ⟨rfl, rfl, rfl⟩)

section Input

variable {i : Instr} {s t : State} (hi : i = .finish ∨ ∃ b, i = .fold b)
include hi

theorem exec_input_var_wsel (h : exec i s = .next t) : t.var = s.var ∧ t.wsel = s.wsel := by
  obtain hkeep | ⟨v, ws, rfl, -⟩ | ⟨rfl, -⟩ := exec_var_wsel h
  · exact hkeep
  · simp at hi
  · simp at hi

/-- FOLD and FINISH end outside ERROR only from SEEDED and FOLDING. -/
theorem acceptsInput_of_exec_input (h : exec i s = .next t) (ht : t.state ≠ .error) : s.state.acceptsInput = true := by
  by_contra hin
  cases (exec_input_of_not_accepts hi (Bool.eq_false_of_not_eq_true hin)).symm.trans h
  exact ht (signal_state .sequence s)

end Input

/-- Settles O28: the port by `exec_port_frame`; FOLD and FINISH write ERR, and FINISH writes ACC, by `signal` alone. -/
theorem commandFrame : Obligations.CommandFrame := by
  intro i s t h
  obtain ⟨hrom, hreset, hoffered, hreplies⟩ := exec_port_frame h
  refine ⟨hrom, hreset, hoffered, hreplies, ?_, fun hi => ?_, ?_⟩
  · rintro rfl
    cases h
    rfl
  · obtain ⟨hvar, hwsel⟩ := exec_input_var_wsel hi h
    exact ⟨hvar, hwsel, fun ht => exec_input_keeps_err hi (acceptsInput_of_exec_input hi h ht) h⟩
  · rintro rfl ht
    have hin := acceptsInput_of_exec_input (.inl rfl) h ht
    cases (execFinish_of_accepts hin).symm.trans h
    rfl

/-- An access leaves VAR and WSEL, or it is the write of an INIT or of CLEAR. -/
theorem accept_var_wsel {a : Access} {s t : State} (h : accept a s = .next t) :
    (t.var = s.var ∧ t.wsel = s.wsel) ∨
      (∃ v ws, a = Access.command (encode (.init v ws)) ∧ t.var = v ∧ t.wsel = ws) ∨
      (a = Access.command (encode .clear) ∧ t.var = 0 ∧ t.wsel = 0) := by
  obtain ⟨w, rfl, hcmd⟩ | ⟨w, -, -, rfl⟩ | ⟨-, rfl⟩ := accept_cases h
  · obtain ⟨i, hw, hexec⟩ | ⟨why, -, rfl⟩ := acceptCommand_cases hcmd
    · rw [← encode_of_decode hw]
      obtain hkeep | ⟨v, ws, rfl, hwrite⟩ | ⟨rfl, hwrite⟩ := exec_var_wsel hexec
      · exact .inl hkeep
      · exact .inr (.inl ⟨v, ws, rfl, hwrite⟩)
      · exact .inr (.inr ⟨rfl, hwrite⟩)
    · exact .inl ⟨signal_var .illegalCommand s, signal_wsel .illegalCommand s⟩
  · exact .inl ⟨rfl, rfl⟩
  · exact .inl ⟨rfl, rfl⟩

/-- Settles O29: without a reset a step is the oldest access or nothing. -/
theorem onlyInitAndClearWriteVarAndWsel : Obligations.OnlyInitAndClearWriteVarAndWsel := by
  intro s t hreset h
  obtain ⟨hreset', -⟩ | ⟨-, -, rfl⟩ | ⟨a, rest, -, hheld, hacc⟩ := step_cases h
  · cases hreset.symm.trans hreset'
  · exact .inl ⟨rfl, rfl⟩
  · obtain hkeep | ⟨v, ws, rfl, hwrite⟩ | ⟨rfl, hwrite⟩ := accept_var_wsel hacc
    · exact .inl hkeep
    · exact .inr (.inl ⟨v, ws, rest, hheld, hwrite⟩)
    · exact .inr (.inr ⟨rest, hheld, hwrite⟩)

/-- Settles O55: the invariant of ERROR has no accumulator, and a DIGEST word needs DONE. -/
theorem noDigestAfterAnError : Obligations.NoDigestAfterAnError := by
  intro w s t hs h ht
  obtain ⟨-, hacc⟩ := (accept_inv hs h).error ht
  exact ⟨hacc, fun k => digestWord_of_not_done k (by simp [ht])⟩

end Sys2Proof.Machine
end

section
/-! PROOFS. Reset and steps: the register values after reset (10_state.md R35), what a reset keeps and its equality with CLEAR
(70_reset_and_hazards.md R240, R243), the step of the oldest held access (20_memory.md R57), and that every held access of a
clean port is served (R244, R245). -/

namespace Sys2Proof.Machine

-- Reset

/-- The registers after reset are cleared registers, whose STATUS is 0. -/
theorem status_resetOf (b : Build) : status (State.resetOf b) = 0x00000000 := status_clearRegisters (State.resetOf b)

/-- Settles O7: each value stands in `State.resetOf`, and `State.reset` is that of the default build. -/
theorem resetRegisterValues : Obligations.ResetRegisterValues :=
  ⟨fun b => ⟨rfl, rfl, rfl, rfl, rfl, status_resetOf b, rfl, rfl⟩, rfl, rfl, rfl, rfl, rfl,
    status_resetOf Build.default, rfl⟩

/-- Settles O9: the filter of a reset passes every access that is no command, as often as it is held. -/
theorem resetKeepsOtherHeldAccesses : Obligations.ResetKeepsOtherHeldAccesses := by
  intro s hreset
  refine ⟨takeReset s, step_of_reset hreset, takeReset_resetReq s, takeReset_replies s, fun a ha => ?_⟩
  rw [takeReset_offered, List.count_filter (by simp [ha])]

/-- Settles O10: CLEAR and reset both write the reset registers, and neither writes the ROM. -/
theorem clearEqualsReset : Obligations.ClearEqualsReset :=
  fun s => ⟨clearRegisters s, takeReset { s with resetReq := true }, rfl, step_of_reset rfl, rfl, rfl, rfl, rfl, rfl, rfl⟩

-- The oldest held access

theorem step_of_none_held {s : State} (hreset : s.resetReq = false) (hheld : s.offered = []) : step s = .next s := by
  simp [step, hreset, hheld]

/-- A word fits its 32 bits, so `withFetchWord` offers the word itself. -/
theorem withFetchWord_toNat (s : State) (w : Word) :
    s.withFetchWord 32 w.toNat = { s with resetReq := false, offered := Access.command w :: s.offered } := by
  rw [State.withFetchWord, Nat.mod_eq_of_lt w.isLt, BitVec.ofNat_toNat, BitVec.setWidth_eq]

/-- The write of an instruction's encoding is its exec (R140). -/
theorem accept_command_encode (i : Instr) (s : State) : accept (Access.command (encode i)) s = exec i s :=
  acceptCommand_of_decode s (decode_encode i)

/-- Settles O38: a step passes the oldest held access to the port, and a write to CMD is the decoded command. -/
theorem stepRunsTheOldestAccess : Obligations.StepRunsTheOldestAccess := by
  refine ⟨fun s w i rest hreset hheld hw => ?_, fun s a rest hreset hheld => step_of_held hreset hheld,
    fun s hreset hheld => step_of_none_held hreset hheld, fun s i => ?_⟩
  · rw [step_of_held hreset hheld, accept_command, acceptCommand_of_decode _ hw]
  · rw [withFetchWord_toNat, step_of_held rfl rfl, accept_command_encode]

-- Every held access is served

/-- The commands among the accesses are the writes of words to CMD (R55). -/
theorem isCommand_iff (a : Access) : a.isCommand = true ↔ ∃ w, a = Access.command w := by
  obtain ⟨off, size, op⟩ := a
  cases op with
  | read => simp [Access.isCommand, Access.command]
  | write w =>
    have hsplit : Access.isCommand ⟨off, size, .write w⟩ = true ↔
        (size = .word ∧ off.toNat % 4 = 0) ∧ off = 0 := by
      simp [Access.isCommand, Access.inInterface]
    rw [hsplit]
    constructor
    · rintro ⟨⟨rfl, -⟩, rfl⟩
      exact ⟨w, rfl⟩
    · rintro ⟨w', h⟩
      cases h
      exact ⟨⟨rfl, rfl⟩, rfl⟩

/-- From a state of R30 every access of the interface completes. -/
theorem accept_completes {a : Access} {s : State} (hs : s.Inv) (ha : a.inInterface = true) :
    ∃ t, accept a s = .next t := by
  cases hcmd : a.isCommand with
  | true =>
    obtain ⟨w, rfl⟩ := (isCommand_iff a).mp hcmd
    exact acceptCommand_completes hs w
  | false =>
    obtain ⟨t, h, -⟩ := accept_of_not_command s ha hcmd
    exact ⟨t, h⟩

theorem accept_offered {a : Access} {s t : State} (h : accept a s = .next t) : t.offered = s.offered := by
  obtain ⟨w, -, hcmd⟩ | ⟨w, -, -, rfl⟩ | ⟨-, rfl⟩ := accept_cases h
  · obtain ⟨-, -, hoffered, -⟩ := acceptCommand_port_frame hcmd
    exact hoffered
  · rfl
  · rfl

/-- A read returns one word to the host, and nothing else does (R55). -/
theorem accept_replies_length {a : Access} {s t : State} (h : accept a s = .next t) :
    t.replies.length = s.replies.length + if a.op == .read then 1 else 0 := by
  obtain ⟨w, rfl, hcmd⟩ | ⟨w, hop, -, rfl⟩ | ⟨hop, rfl⟩ := accept_cases h
  · obtain ⟨-, -, -, hreplies⟩ := acceptCommand_port_frame hcmd
    rw [hreplies]
    rfl
  · rw [hop]
    rfl
  · rw [hop, addReply_replies, List.length_append]
    rfl

theorem runAccesses_cons_of_next {a : Access} {s t : State} (as : List Access) (h : accept a s = .next t) :
    runAccesses (a :: as) s = runAccesses as t := by
  simp only [runAccesses, h]

/-- Accesses of the interface all complete from a state of R30, with one reply for each read among them. -/
theorem runAccesses_completes {as : List Access} {s : State} (hs : s.Inv) (hclean : ∀ a ∈ as, a.inInterface = true) :
    ∃ t, runAccesses as s = .next t ∧ t.offered = s.offered ∧ t.Inv ∧
      t.replies.length = s.replies.length + as.countP fun a => a.op == .read := by
  induction as generalizing s with
  | nil => exact ⟨s, rfl, rfl, hs, rfl⟩
  | cons a as ih =>
    obtain ⟨ha, has⟩ := List.forall_mem_cons.mp hclean
    obtain ⟨u, hacc⟩ := accept_completes hs ha
    obtain ⟨t, hrun, hoffered, hinv, hlen⟩ := ih (accept_inv hs hacc) has
    refine ⟨t, (runAccesses_cons_of_next as hacc).trans hrun, hoffered.trans (accept_offered hacc), hinv, ?_⟩
    rw [hlen, accept_replies_length hacc, List.countP_cons, Nat.add_assoc, Nat.add_comm (ite _ _ _)]

/-- Settles O40: the steps are the held accesses one after the other (O39), and from a state of R30 each of those
completes. -/
theorem everyHeldAccessIsServed : Obligations.EveryHeldAccessIsServed := by
  intro s hs hclean hreset
  obtain ⟨t, hrun, hoffered, hinv, hlen⟩ := runAccesses_completes (inv_holding hs []) hclean
  exact ⟨t, (stepsTakeHeldAccessesInOrder s hreset).trans hrun, hrun, hoffered, hinv, hlen⟩

end Sys2Proof.Machine
end

section
/-! PROOFS. The arithmetic laws (41_wide_arith.md): MulW and XorByte as the native operations (R126), their bounds (R127), the
corner cases (R129), the two fold orders (R128), and the default constants (40_constants_rom.md R108, R110). -/

namespace Sys2Proof.Machine

-- The native operations

theorem mulW_toNat {W : Nat} (a p : BitVec W) : mulW W a.toNat p.toNat = (a * p).toNat := (BitVec.toNat_mul a p).symm

theorem xorByte_toNat {W : Nat} (a : BitVec W) (b : Byte) : xorByte W a.toNat b = (a ^^^ b.setWidth W).toNat :=
  (BitVec.toNat_xor a _).symm

/-- Settles O41: BitVec's product is the product modulo 2^W, and its XOR is the naturals'. -/
theorem primitivesAreNativeWrapping : Obligations.PrimitivesAreNativeWrapping :=
  ⟨fun _ _ _ => rfl, fun _ a p => mulW_toNat a p, fun _ a b => xorByte_toNat a b⟩

/-- Settles O43: a remainder is below 2^W, and the XOR of two values below 2^W is. -/
theorem primitivesStayBelowWidth : Obligations.PrimitivesStayBelowWidth := ⟨mulW_lt, fun _ _ b ha => xorByte_lt b ha⟩

-- The corner cases of MulW

theorem mulW_zero_left (W p : Nat) : mulW W 0 p = 0 := by
  rw [mulW, Nat.zero_mul, Nat.zero_mod]

theorem mulW_one_left {W p : Nat} (hp : p < 2 ^ W) : mulW W 1 p = p := by
  rw [mulW, Nat.one_mul, Nat.mod_eq_of_lt hp]

/-- An odd prime leaves the top bit alone: 2^(W-1) · (2k+1) = k · 2^W + 2^(W-1). -/
theorem mulW_top_bit {W p : Nat} (hW : 0 < W) (hp : p % 2 = 1) : mulW W (2 ^ (W - 1)) p = 2 ^ (W - 1) := by
  have hpow : 2 ^ W = 2 ^ (W - 1) * 2 := (Nat.two_pow_pred_mul_two hW).symm
  have hlt : 2 ^ (W - 1) < 2 ^ W := Nat.two_pow_pred_lt_two_pow hW
  have hsplit : 2 ^ (W - 1) * p = p / 2 * 2 ^ W + 2 ^ (W - 1) := by
    calc 2 ^ (W - 1) * p = 2 ^ (W - 1) * (2 * (p / 2) + 1) := by rw [← hp, Nat.div_add_mod]
      _ = p / 2 * 2 ^ W + 2 ^ (W - 1) := by rw [hpow]; ring
  rw [mulW, hsplit, Nat.mul_add_mod_of_lt hlt]

/-- 2^W - 1 is -1: (2^W - 1) · p = (p - 1) · 2^W + (2^W - p). -/
theorem mulW_all_ones {W p : Nat} (hpos : 0 < p) (hp : p < 2 ^ W) : mulW W (2 ^ W - 1) p = 2 ^ W - p := by
  have hsplit : (2 ^ W - 1) * p = (p - 1) * 2 ^ W + (2 ^ W - p) := by
    have hmul : 2 ^ W ≤ p * 2 ^ W := Nat.le_mul_of_pos_left _ hpos
    rw [Nat.sub_mul, Nat.sub_mul, Nat.one_mul, Nat.one_mul, Nat.mul_comm]
    omega
  rw [mulW, hsplit, Nat.mul_add_mod_of_lt (by omega)]

theorem mulW_mod_left (W a p : Nat) : mulW W a p = mulW W (a % 2 ^ W) p := (Nat.mod_mul_mod a p (2 ^ W)).symm

theorem coprime_two_pow_of_odd {p : Nat} (hp : p % 2 = 1) (W : Nat) : p.Coprime (2 ^ W) :=
  (Nat.coprime_two_right.mpr (Nat.odd_iff.mpr hp)).pow_right W

/-- MulW by an odd prime reaches every W-bit value: an odd prime has an inverse modulo 2^W. -/
theorem exists_mulW_eq {W p y : Nat} (hp : p % 2 = 1) (hy : y < 2 ^ W) : ∃ a, a < 2 ^ W ∧ mulW W a p = y := by
  obtain ⟨a, ha, heq⟩ :=
    Nat.exists_mul_mod_eq_of_coprime y (coprime_two_pow_of_odd hp W) (Nat.two_pow_pos W).ne'
  refine ⟨a, ha, ?_⟩
  rw [mulW, Nat.mul_comm, heq, Nat.mod_eq_of_lt hy]

/-- MulW by an odd prime takes no two W-bit values to one. -/
theorem mulW_injective {W p a a' : Nat} (hp : p % 2 = 1) (ha : a < 2 ^ W) (ha' : a' < 2 ^ W)
    (h : mulW W a' p = mulW W a p) : a' = a :=
  (Nat.ModEq.cancel_right_of_coprime (coprime_two_pow_of_odd hp W).symm h).eq_of_lt_of_lt ha' ha

-- The corner cases of XorByte

theorem xorByte_zero (W a : Nat) : xorByte W a 0 = a := by
  simp [xorByte]

theorem xorByte_xorByte (W a : Nat) (b : Byte) : xorByte W (xorByte W a b) b = a := Nat.xor_xor_cancel_right a _

/-- Settles O45, law by law. -/
theorem cornerCaseLaws : Obligations.CornerCaseLaws := by
  refine ⟨mulW_zero_left, fun W p hp => mulW_one_left hp, fun W p hW hp => mulW_top_bit hW hp,
    fun W p hpos hp => mulW_all_ones hpos hp, mulW_mod_left, fun W p hp y hy => ?_, xorByte_zero, xorByte_xorByte,
    fun W a b ha => xorByte_lt b ha⟩
  obtain ⟨a, ha, rfl⟩ := exists_mulW_eq hp hy
  exact ⟨a, ha, rfl, fun a' ha' h => mulW_injective hp ha ha' h⟩

/-- Settles O44: XOR with the byte 0 changes nothing; the byte 0x61 tells the two orders apart. -/
theorem foldOrdersDiffer : Obligations.FoldOrdersDiffer := by
  refine ⟨fun c a => ⟨?_, ?_⟩, rom32.consts, rfl, by decide, by decide⟩
  · rw [step1, xorByte_zero]
  · rw [step1a, xorByte_zero]

-- The default constants

/-- The default ROM answers the six pairs of the default table and nothing else (R6, R102 to R107). -/
theorem defaultRom_const_cases {ws : Nibble} {c : Consts} (h : defaultRom.const ws = some c) :
    c = rom32.consts ∨ c = rom64.consts ∨ c = rom128.consts ∨ c = rom256.consts ∨ c = rom512.consts ∨
      c = rom1024.consts := by
  obtain ⟨w, -, hentry, -⟩ := const_spec h
  cases w with
  | w32 => exact .inl (Option.some.inj hentry).symm
  | w64 => exact .inr (.inl (Option.some.inj hentry).symm)
  | w128 => exact .inr (.inr (.inl (Option.some.inj hentry).symm))
  | w256 => exact .inr (.inr (.inr (.inl (Option.some.inj hentry).symm)))
  | w512 => exact .inr (.inr (.inr (.inr (.inl (Option.some.inj hentry).symm))))
  | w1024 => exact .inr (.inr (.inr (.inr (.inr (Option.some.inj hentry).symm))))

/-- The highest set bit of the 1024-bit basis is bit 950 (R110). -/
theorem rom1024_basis_lt : rom1024.basis.toNat < 2 ^ 951 := by decide +kernel

/-- Settles O48: the six pairs are closed terms, and each property of one pair computes. -/
theorem defaultConstants : Obligations.DefaultConstants := by
  refine ⟨fun ws c h => ?_, fun ws c h => ?_, by decide, by decide, fun j hj => ?_⟩
  · obtain ⟨-, -, -, -, hprime, hbasis⟩ := const_spec h
    refine ⟨?_, ?_, hprime, hbasis⟩
    · obtain rfl | rfl | rfl | rfl | rfl | rfl := defaultRom_const_cases h <;> decide
    · obtain rfl | rfl | rfl | rfl | rfl | rfl := defaultRom_const_cases h <;> decide
  · obtain rfl | rfl | rfl | rfl | rfl | rfl := defaultRom_const_cases h <;> decide +kernel
  · rw [← BitVec.testBit_toNat]
    exact Nat.testBit_eq_false_of_lt (rom1024_basis_lt.trans_le (pow_right_mono₀ one_le_two hj))

end Sys2Proof.Machine
end

section
/-! PROOFS. The primitives on limbs (41_wide_arith.md): the value of a list of limbs (R121), the limb multiplier row by row
(R122), and XorByte on limb 0 (R124). -/

namespace Sys2Proof.Machine

-- Limbs and their value

theorem length_toLimbs (L n a : Nat) : (toLimbs L n a).length = n := by
  induction n generalizing a with
  | zero => rfl
  | succ n ih => rw [toLimbs, List.length_cons, ih]

theorem toLimbs_lt (L n a : Nat) : ∀ x ∈ toLimbs L n a, x < 2 ^ L := by
  induction n generalizing a with
  | zero => simp [toLimbs]
  | succ n ih => exact List.forall_mem_cons.mpr ⟨Nat.mod_lt _ (Nat.two_pow_pos L), ih _⟩

/-- `n` limbs hold a value modulo 2^(Ln) (R121). -/
theorem limbsValue_toLimbs (L n a : Nat) : limbsValue L (toLimbs L n a) = a % 2 ^ (L * n) := by
  induction n generalizing a with
  | zero => simp [toLimbs, limbsValue, Nat.mod_one]
  | succ n ih => rw [toLimbs, limbsValue, ih, ← Nat.mod_mul, ← Nat.pow_add, Nat.mul_succ, Nat.add_comm L]

theorem limbsValue_lt {L : Nat} {xs : List Nat} (h : ∀ x ∈ xs, x < 2 ^ L) : limbsValue L xs < 2 ^ (L * xs.length) := by
  induction xs with
  | nil => exact Nat.two_pow_pos _
  | cons x xs ih =>
    obtain ⟨hx, hxs⟩ := List.forall_mem_cons.mp h
    calc x + 2 ^ L * limbsValue L xs < 2 ^ L + 2 ^ L * limbsValue L xs := Nat.add_lt_add_right hx _
      _ = 2 ^ L * (limbsValue L xs + 1) := by ring
      _ ≤ 2 ^ L * 2 ^ (L * xs.length) := Nat.mul_le_mul_left _ (ih hxs)
      _ = 2 ^ (L * (x :: xs).length) := by rw [← Nat.pow_add, List.length_cons, Nat.mul_succ, Nat.add_comm]

theorem limbsValue_replicate_zero (L n : Nat) : limbsValue L (List.replicate n 0) = 0 := by
  induction n with
  | zero => rfl
  | succ n ih => rw [List.replicate_succ, limbsValue, ih, Nat.mul_zero]

/-- Limbs that agree modulo 2^(Ln) agree modulo 2^(L(n+1)) with one more limb below them. -/
theorem modEq_limb_cons {L n : Nat} (x : Nat) {u v : Nat} (h : u ≡ v [MOD 2 ^ (L * n)]) :
    x + 2 ^ L * u ≡ x + 2 ^ L * v [MOD 2 ^ (L * (n + 1))] := by
  rw [Nat.mul_succ, Nat.add_comm (L * n), Nat.pow_add]
  exact (h.mul_left' (2 ^ L)).add_left x

-- One row of the multiplier

theorem length_mulRow (L ai : Nat) (rs ps : List Nat) (carry : Nat) : (mulRow L ai rs ps carry).length = rs.length := by
  induction rs generalizing ps carry with
  | nil => simp [mulRow]
  | cons r rs ih =>
    cases ps with
    | nil => simp [mulRow]
    | cons p ps => rw [mulRow, List.length_cons, List.length_cons, ih]

theorem mulRow_lt {L ai : Nat} {rs ps : List Nat} (carry : Nat) (hlen : rs.length ≤ ps.length) :
    ∀ x ∈ mulRow L ai rs ps carry, x < 2 ^ L := by
  induction rs generalizing ps carry with
  | nil => simp [mulRow]
  | cons r rs ih =>
    cases ps with
    | nil => cases hlen
    | cons p ps => exact List.forall_mem_cons.mpr ⟨Nat.mod_lt _ (Nat.two_pow_pos L), ih _ (Nat.le_of_succ_le_succ hlen)⟩

/-- A row adds a_i · p and the carry to the limbs it runs over; the carry out of the last limb is what is lost. -/
theorem limbsValue_mulRow {L ai : Nat} {rs ps : List Nat} (carry : Nat) (hlen : rs.length ≤ ps.length) :
    limbsValue L (mulRow L ai rs ps carry) ≡ limbsValue L rs + ai * limbsValue L ps + carry
      [MOD 2 ^ (L * rs.length)] := by
  induction rs generalizing ps carry with
  | nil =>
    rw [List.length_nil, Nat.mul_zero]
    exact Nat.modEq_one
  | cons r rs ih =>
    cases ps with
    | nil => cases hlen
    | cons p ps =>
      have hrest := ih (ps := ps) (limbTerm r ai p carry / 2 ^ L) (Nat.le_of_succ_le_succ hlen)
      have hterm : limbTerm r ai p carry % 2 ^ L + 2 ^ L * (limbTerm r ai p carry / 2 ^ L) = r + ai * p + carry :=
        Nat.mod_add_div _ _
      calc limbsValue L (mulRow L ai (r :: rs) (p :: ps) carry)
        _ ≡ limbTerm r ai p carry % 2 ^ L +
              2 ^ L * (limbsValue L rs + ai * limbsValue L ps + limbTerm r ai p carry / 2 ^ L)
            [MOD 2 ^ (L * (r :: rs).length)] := modEq_limb_cons _ hrest
        _ = limbTerm r ai p carry % 2 ^ L + 2 ^ L * (limbTerm r ai p carry / 2 ^ L) +
              2 ^ L * (limbsValue L rs + ai * limbsValue L ps) := by ring
        _ = limbsValue L (r :: rs) + ai * limbsValue L (p :: ps) + carry := by
          rw [hterm, limbsValue, limbsValue]
          ring

-- All rows

/-- The outer loop's row i gives the final limb i, and the later rows run over the rest (R122). -/
theorem mulRows_cons (L ai : Nat) (as ps : List Nat) (r : Nat) (rs : List Nat) :
    ∃ x xs, mulRow L ai (r :: rs) ps 0 = x :: xs ∧ xs.length = rs.length ∧
      mulRows L (ai :: as) ps (r :: rs) = x :: mulRows L as ps xs := by
  have hlen := length_mulRow L ai (r :: rs) ps 0
  cases hrow : mulRow L ai (r :: rs) ps 0 with
  | nil =>
    rw [hrow] at hlen
    cases hlen
  | cons x xs =>
    rw [hrow] at hlen
    exact ⟨x, xs, rfl, Nat.succ.inj hlen, by simp only [mulRows, hrow]⟩

theorem mulRows_fits {L : Nat} {as ps rs : List Nat} (has : as.length = rs.length) (hps : rs.length ≤ ps.length) :
    (mulRows L as ps rs).length = rs.length ∧ ∀ x ∈ mulRows L as ps rs, x < 2 ^ L := by
  induction as generalizing rs with
  | nil =>
    cases List.eq_nil_of_length_eq_zero has.symm
    simp [mulRows]
  | cons ai as ih =>
    cases rs with
    | nil => cases has
    | cons r rs =>
      obtain ⟨x, xs, hrow, hlen, hrows⟩ := mulRows_cons L ai as ps r rs
      have hlimbs := mulRow_lt (L := L) (ai := ai) 0 hps
      rw [hrow] at hlimbs
      obtain ⟨hx, -⟩ := List.forall_mem_cons.mp hlimbs
      obtain ⟨hlen', hlt⟩ := ih (rs := xs) ((Nat.succ.inj has).trans hlen.symm) (hlen ▸ Nat.le_of_succ_le hps)
      rw [hrows]
      exact ⟨by rw [List.length_cons, hlen', hlen, List.length_cons], List.forall_mem_cons.mpr ⟨hx, hlt⟩⟩

/-- The rows add a · p to the limbs of r, modulo 2^(Ln). -/
theorem limbsValue_mulRows {L : Nat} {as ps rs : List Nat} (has : as.length = rs.length) (hps : rs.length ≤ ps.length) :
    limbsValue L (mulRows L as ps rs) ≡ limbsValue L rs + limbsValue L as * limbsValue L ps
      [MOD 2 ^ (L * rs.length)] := by
  induction as generalizing rs with
  | nil =>
    cases List.eq_nil_of_length_eq_zero has.symm
    exact Nat.modEq_one
  | cons ai as ih =>
    cases rs with
    | nil => cases has
    | cons r rs =>
      obtain ⟨x, xs, hrow, hlen, hrows⟩ := mulRows_cons L ai as ps r rs
      have hfirst := limbsValue_mulRow (L := L) (ai := ai) 0 hps
      have hrest := ih (rs := xs) ((Nat.succ.inj has).trans hlen.symm) (hlen ▸ Nat.le_of_succ_le hps)
      rw [hrow, limbsValue, Nat.add_zero] at hfirst
      rw [hlen] at hrest
      calc limbsValue L (mulRows L (ai :: as) ps (r :: rs))
        _ = x + 2 ^ L * limbsValue L (mulRows L as ps xs) := by rw [hrows, limbsValue]
        _ ≡ x + 2 ^ L * (limbsValue L xs + limbsValue L as * limbsValue L ps) [MOD 2 ^ (L * (r :: rs).length)] :=
          modEq_limb_cons x hrest
        _ = x + 2 ^ L * limbsValue L xs + 2 ^ L * (limbsValue L as * limbsValue L ps) := by ring
        _ ≡ limbsValue L (r :: rs) + ai * limbsValue L ps + 2 ^ L * (limbsValue L as * limbsValue L ps)
            [MOD 2 ^ (L * (r :: rs).length)] := hfirst.add_right _
        _ = limbsValue L (r :: rs) + limbsValue L (ai :: as) * limbsValue L ps := by
          rw [limbsValue.eq_2 L ai as]
          ring

/-- The limb multiplier is MulW at W = L · n (R120, R122). -/
theorem mulLimbs_eq_mulW (L n a p : Nat) : mulLimbs L n a p = mulW (L * n) a p := by
  have hzeros : (List.replicate n 0).length = n := List.length_replicate
  have has : (toLimbs L n a).length = (List.replicate n 0).length := by rw [length_toLimbs, hzeros]
  have hps : (List.replicate n 0).length ≤ (toLimbs L n p).length := by rw [length_toLimbs, hzeros]
  obtain ⟨hlen, hlimbs⟩ := mulRows_fits (L := L) has hps
  have hlt := limbsValue_lt hlimbs
  have hmod := limbsValue_mulRows (L := L) has hps
  rw [hlen, hzeros] at hlt
  rw [hzeros, limbsValue_replicate_zero, Nat.zero_add, limbsValue_toLimbs, limbsValue_toLimbs] at hmod
  calc mulLimbs L n a p = mulLimbs L n a p % 2 ^ (L * n) := (Nat.mod_eq_of_lt hlt).symm
    _ = a % 2 ^ (L * n) * (p % 2 ^ (L * n)) % 2 ^ (L * n) := hmod
    _ = mulW (L * n) a p := (Nat.mul_mod a p _).symm

/-- With its four operands below B, r + a_i · p_j + carry is at most (B-1) + (B-1)² + (B-1) = B² - 1. -/
theorem limbTerm_lt_mul {B r ai pj carry : Nat} (hr : r < B) (hai : ai < B) (hpj : pj < B) (hcarry : carry < B) :
    limbTerm r ai pj carry < B * B := by
  obtain ⟨m, rfl⟩ : ∃ m, B = m + 1 := ⟨B - 1, by omega⟩
  have hprod : ai * pj ≤ m * m := Nat.mul_le_mul (by omega) (by omega)
  have hsquare : (m + 1) * (m + 1) = m * m + 2 * m + 1 := by ring
  rw [limbTerm, hsquare]
  omega

/-- Settles O46: row by row the limbs hold the product modulo 2^(Ln), and a term below 2^(2L) carries less than 2^L. -/
theorem limbMultiplierEqualsMulw : Obligations.LimbMultiplierEqualsMulw := by
  refine ⟨fun L n a p _ => mulLimbs_eq_mulW L n a p, fun L r ai pj carry hr hai hpj hcarry => ?_⟩
  have hlt := limbTerm_lt_mul hr hai hpj hcarry
  refine ⟨?_, Nat.div_lt_of_lt_mul hlt⟩
  rw [← Nat.pow_add, ← Nat.two_mul] at hlt
  exact Nat.le_sub_one_of_lt hlt

-- XorByte on limbs

theorem xorLimbs_toLimbs_succ (L n a : Nat) (b : Byte) :
    xorLimbs (toLimbs L (n + 1) a) b = (a % 2 ^ L ^^^ b.toNat) :: toLimbs L n (a / 2 ^ L) := rfl

/-- A byte below 2^L meets the low L bits alone. -/
theorem xor_eq_low_add_high {L : Nat} (a : Nat) {x : Nat} (hx : x < 2 ^ L) :
    a ^^^ x = (a % 2 ^ L ^^^ x) + 2 ^ L * (a / 2 ^ L) := by
  have hmod : (a ^^^ x) % 2 ^ L = a % 2 ^ L ^^^ x := by rw [Nat.xor_mod_two_pow, Nat.mod_eq_of_lt hx]
  have hdiv : (a ^^^ x) / 2 ^ L = a / 2 ^ L := by rw [Nat.xor_div_two_pow, Nat.div_eq_of_lt hx, Nat.xor_zero]
  rw [← hmod, ← hdiv, Nat.mod_add_div]

/-- Settles O47: the byte meets the low limb alone, and the limbs above it hold a / 2^L. -/
theorem limbXorEqualsXorByte : Obligations.LimbXorEqualsXorByte := by
  intro L n a b hL hn ha
  obtain ⟨n, rfl⟩ := Nat.exists_eq_succ_of_ne_zero hn.ne'
  have hb : b.toNat < 2 ^ L := b.isLt.trans_le (Nat.pow_le_pow_right (by decide) hL)
  have hW : 8 ≤ L * (n + 1) := hL.trans (Nat.le_mul_of_pos_right L n.succ_pos)
  have hhigh : a / 2 ^ L < 2 ^ (L * n) := by
    rw [Nat.mul_succ, Nat.add_comm, Nat.pow_add] at ha
    exact Nat.div_lt_of_lt_mul ha
  rw [xorLimbs_toLimbs_succ]
  refine ⟨?_, rfl, List.forall_mem_cons.mpr ⟨?_, toLimbs_lt L n _⟩⟩
  · rw [limbsValue, limbsValue_toLimbs, Nat.mod_eq_of_lt hhigh, xorByte_eq hW, xor_eq_low_add_high a hb]
  · exact Nat.xor_lt_two_pow (Nat.mod_lt _ (Nat.two_pow_pos L)) hb

end Sys2Proof.Machine
end

section
/-! PROOFS. Runs of commands: the accesses of a list of instructions, a run of FOLDs from a computation (42_commands.md R151),
and what the host's hash makes the engine do (43_digest_readout.md R175 to R178, 40_constants_rom.md R111). -/

namespace Sys2Proof.Machine

-- Accesses that write commands

/-- The writes of a list of instructions to CMD. -/
def commandAccesses (is : List Instr) : List Access := is.map fun i => Access.command (encode i)

theorem hashCommands_accesses (v ws : Nibble) (bytes : List Byte) :
    (hashCommands v ws bytes).map Access.command =
      commandAccesses (.init v ws :: (foldInstrs bytes ++ [.finish])) := by
  simp [hashCommands, commandAccesses, foldInstrs, Function.comp_def]

theorem runAccesses_commandAccesses_cons (i : Instr) {s t : State} (is : List Instr) (h : exec i s = .next t) :
    runAccesses (commandAccesses (i :: is)) s = runAccesses (commandAccesses is) t :=
  runAccesses_cons_of_next _ ((accept_command_encode i s).trans h)

/-- A completed run has completed its first access. -/
theorem accept_of_runAccesses_cons {a : Access} {as : List Access} {s t : State} (h : runAccesses (a :: as) s = .next t) :
    ∃ u, accept a s = .next u ∧ runAccesses as u = .next t := by
  unfold runAccesses at h
  cases hacc : accept a s with
  | next u =>
    rw [hacc] at h
    exact ⟨u, rfl, h⟩
  | fault r =>
    rw [hacc] at h
    cases h
  | refused r =>
    rw [hacc] at h
    cases h

theorem runAccesses_append_of_next {as : List Access} {s t : State} (bs : List Access) (h : runAccesses as s = .next t) :
    runAccesses (as ++ bs) s = runAccesses bs t := by
  rw [runAccesses_append, h]

theorem commandAccesses_append (is js : List Instr) :
    commandAccesses (is ++ js) = commandAccesses is ++ commandAccesses js := List.map_append

/-- A run of commands leaves the ROM and the port alone. -/
theorem runAccesses_commandAccesses_port_frame {is : List Instr} {s t : State}
    (h : runAccesses (commandAccesses is) s = .next t) :
    t.rom = s.rom ∧ t.resetReq = s.resetReq ∧ t.offered = s.offered ∧ t.replies = s.replies := by
  induction is generalizing s with
  | nil =>
    cases h
    exact ⟨rfl, rfl, rfl, rfl⟩
  | cons i is ih =>
    obtain ⟨u, hacc, hrun⟩ := accept_of_runAccesses_cons h
    obtain ⟨hrom, hreset, hoffered, hreplies⟩ := acceptCommand_port_frame hacc
    obtain ⟨hrom', hreset', hoffered', hreplies'⟩ := ih hrun
    exact ⟨hrom'.trans hrom, hreset'.trans hreset, hoffered'.trans hoffered, hreplies'.trans hreplies⟩

/-- In ERROR a run of FOLDs and FINISHes changes nothing (R204). -/
theorem runAccesses_inputs_of_error {is : List Instr} {s : State} (hs : s.state = .error)
    (hin : ∀ i ∈ is, i = .finish ∨ ∃ b, i = .fold b) : runAccesses (commandAccesses is) s = .next s := by
  induction is with
  | nil => rfl
  | cons i is ih =>
    obtain ⟨hi, his⟩ := List.forall_mem_cons.mp hin
    rw [runAccesses_commandAccesses_cons i is (exec_input_of_error hi hs), ih his]

-- A computation in progress

/-- The engine is in SEEDED or FOLDING, over the constants `c`, with the accumulator `a`. -/
structure State.Computes (s : State) (c : Consts) (a : Nat) : Prop where
  accepts : s.state.acceptsInput = true
  const : s.rom.const s.wsel = some c
  acc : s.acc = some a

theorem computes_of_inv {s : State} (hs : s.Inv) (hin : s.state.acceptsInput = true) : ∃ c a, s.Computes c a := by
  obtain ⟨-, -, c, a, hc, ha, -⟩ := hs.active (holdsValue_of_acceptsInput hin)
  exact ⟨c, a, hin, hc, ha⟩

/-- A run of FOLDs folds its bytes into the accumulator, in order, and raises no error (R145, R151). -/
theorem runAccesses_folds {s : State} {c : Consts} {a : Nat} (bytes : List Byte) (h : s.Computes c a) :
    ∃ t, runAccesses (commandAccesses (foldInstrs bytes)) s = .next t ∧
      t.Computes c (bytes.foldl (foldStep c s.var) a) ∧ t.err = s.err := by
  induction bytes generalizing s a with
  | nil => exact ⟨s, rfl, h, rfl⟩
  | cons b bytes ih =>
    have hfold : (storeFold (foldStep c s.var a b) s).Computes c (foldStep c s.var a b) := ⟨rfl, h.const, rfl⟩
    obtain ⟨t, hrun, ht, herr⟩ := ih hfold
    have hexec := execFold_of_accepts b h.accepts h.const h.acc
    exact ⟨t, (runAccesses_commandAccesses_cons (.fold b) _ hexec).trans hrun, ht, herr⟩

/-- Settles O31: a computation in SEEDED or FOLDING folds every byte, and ERR is NONE there. -/
theorem foldsRaiseNoError : Obligations.FoldsRaiseNoError := by
  intro s bytes hs hin
  have hin := (acceptsInput_iff _).mpr hin
  obtain ⟨herr, -⟩ := hs.active (holdsValue_of_acceptsInput hin)
  obtain ⟨c, a, hcomputes⟩ := computes_of_inv hs hin
  obtain ⟨t, hrun, ht, herr'⟩ := runAccesses_folds bytes hcomputes
  have haccesses : (bytes.map fun b => Access.command (encode (.fold b))) = commandAccesses (foldInstrs bytes) := by
    simp [commandAccesses, foldInstrs, Function.comp_def]
  rw [haccesses]
  exact ⟨t, hrun, (acceptsInput_iff _).mp ht.accepts, herr'.trans herr⟩

-- The engine after the commands of a hash

/-- The commands of a hash of a supported variant and width end in DONE with the digest in ACC (R175). -/
theorem runAccesses_hashCommands {s : State} {v ws : Nibble} {c : Consts} (bytes : List Byte)
    (hc : s.rom.const ws = some c) (hv : v.toNat ≤ 2) :
    ∃ t, runAccesses ((hashCommands v ws bytes).map Access.command) s = .next t ∧
      t.state = .done ∧ t.rom.const t.wsel = some c ∧ t.acc = some (fnvDigest c v bytes) := by
  have hinit := execInit_of_supported hc (Nat.lt_succ_of_le hv)
  have hseed : (startComputation v ws (seed c v) s).Computes c (seed c v) := ⟨rfl, hc, rfl⟩
  obtain ⟨u, hfolds, hu, -⟩ := runAccesses_folds bytes hseed
  refine ⟨markDone u, ?_, rfl, hu.const, hu.acc⟩
  rw [hashCommands_accesses, runAccesses_commandAccesses_cons (.init v ws) _ hinit, commandAccesses_append,
    runAccesses_append_of_next _ hfolds, runAccesses_commandAccesses_cons .finish _ (execFinish_of_accepts hu.accepts)]
  rfl

/-- The commands of a hash whose INIT fails end in the state that INIT leaves. -/
theorem runAccesses_hashCommands_of_failed {s : State} {e : ErrCode} {v ws : Nibble} (bytes : List Byte)
    (h : execInit v ws s = .next (failInit e v ws s)) :
    runAccesses ((hashCommands v ws bytes).map Access.command) s = .next (failInit e v ws s) := by
  rw [hashCommands_accesses, runAccesses_commandAccesses_cons (.init v ws) _ h]
  refine runAccesses_inputs_of_error rfl fun i hi => ?_
  simp only [foldInstrs, List.mem_append, List.mem_map, List.mem_singleton] at hi
  obtain ⟨b, -, rfl⟩ | rfl := hi
  · exact .inr ⟨b, rfl⟩
  · exact .inl rfl

-- The digest F

theorem foldl_foldStep_lt {c : Consts} (v : Nibble) {a : Nat} (bytes : List Byte) (ha : a < 2 ^ c.bits) :
    bytes.foldl (foldStep c v) a < 2 ^ c.bits := by
  induction bytes generalizing a with
  | nil => exact ha
  | cons b bytes ih => exact ih (foldStep_lt c v b)

theorem fnvDigest_lt {r : Rom} {ws : Nibble} {c : Consts} (h : r.const ws = some c) (v : Nibble) (bytes : List Byte) :
    fnvDigest c v bytes < 2 ^ c.bits := foldl_foldStep_lt v bytes (seed_lt h v)

theorem fnvDigest_nil (c : Consts) (v : Nibble) : fnvDigest c v [] = if v.toNat = 0 then 0 else c.basis := seed_eq c v

theorem foldStep_eq (c : Consts) (v : Nibble) (a : Nat) (b : Byte) :
    foldStep c v a b = if v.toNat ≤ 1 then step1 c a b else step1a c a b := by
  have hcode : (v = 0 ∨ v = 1) ↔ v.toNat ≤ 1 := by
    revert v
    decide
  simp only [foldStep, hcode]

theorem fnvDigest_append_singleton (c : Consts) (v : Nibble) (bytes : List Byte) (b : Byte) :
    fnvDigest c v (bytes ++ [b]) = foldStep c v (fnvDigest c v bytes) b :=
  List.foldl_concat _ _ _ _

-- What hash answers

theorem digestWordCount_eq {r : Rom} {ws : Nibble} {c : Consts} (h : r.const ws = some c) :
    digestWordCount ws = c.bits / 32 := by
  obtain ⟨w, hw, -, hbits, -⟩ := const_spec h
  simp only [digestWordCount, hw, hbits, Config.digestWordBits]

/-- With its commands ending in DONE, hash answers the digest that is in ACC (R171, R175). -/
theorem hostHash_of_done {s t : State} {v ws : Nibble} {bytes : List Byte} {c : Consts} {a : Nat}
    (hrun : runAccesses ((hashCommands v ws bytes).map Access.command) s = .next t) (ht : t.state = .done)
    (hws : digestWordCount ws = c.bits / 32) (hc : t.rom.const t.wsel = some c) (ha : t.acc = some a)
    (hlt : a < 2 ^ c.bits) : hostHash s v ws bytes = some (.digest a) := by
  obtain ⟨hstate, -⟩ := status_fields t
  have hwords := wordsOf_digestWord_of_done ht hc ha
  simp only [hostHash, hrun, hstate, ht, if_true, hws]
  change (wordsOf ((List.range (c.bits / 32)).map (digestWord t))).map _ = _
  rw [hwords, Option.map_some, digestOfWords_of_lt hc hlt]

/-- With its commands ending in ERROR, hash answers the ERR field (R175). -/
theorem hostHash_of_error {s t : State} {v ws : Nibble} {bytes : List Byte}
    (hrun : runAccesses ((hashCommands v ws bytes).map Access.command) s = .next t) (ht : t.state = .error) :
    hostHash s v ws bytes = some (.error t.err.code) := by
  obtain ⟨hstate, -, herr, -⟩ := status_fields t
  have hne : SeqState.error.code ≠ SeqState.done.code := by decide
  simp only [hostHash, hrun, hstate, herr, ht, if_neg hne]

theorem hostHash_of_supported (s : State) {v ws : Nibble} (bytes : List Byte) {c : Consts} (hc : s.rom.const ws = some c)
    (hv : v.toNat ≤ 2) : hostHash s v ws bytes = some (.digest (fnvDigest c v bytes)) := by
  obtain ⟨t, hrun, ht, hct, ha⟩ := runAccesses_hashCommands bytes hc hv
  exact hostHash_of_done hrun ht (digestWordCount_eq hc) hct ha (fnvDigest_lt hc v bytes)

theorem hostHash_of_unsupportedWidth (s : State) (v : Nibble) {ws : Nibble} (bytes : List Byte)
    (hc : s.rom.const ws = none) : hostHash s v ws bytes = some (.error ErrCode.unsupportedWidth.code) :=
  hostHash_of_error (runAccesses_hashCommands_of_failed bytes (execInit_of_unsupportedWidth v hc)) rfl

theorem hostHash_of_unsupportedVariant (s : State) {v ws : Nibble} (bytes : List Byte) {c : Consts}
    (hc : s.rom.const ws = some c) (hv : 3 ≤ v.toNat) :
    hostHash s v ws bytes = some (.error ErrCode.unsupportedVariant.code) :=
  hostHash_of_error (runAccesses_hashCommands_of_failed bytes (execInit_of_unsupportedVariant hc hv)) rfl

/-- Settles O49: the three answers of hash, and F byte by byte. -/
theorem hashComputesTheDigest : Obligations.HashComputesTheDigest := by
  refine ⟨fun s v ws bytes c hc hv => hostHash_of_supported s bytes hc hv,
    fun s v ws bytes hc => hostHash_of_unsupportedWidth s v bytes hc,
    fun s v ws bytes c hc hv => hostHash_of_unsupportedVariant s bytes hc hv, fnvDigest_nil, fun c v bytes b => ?_⟩
  rw [fnvDigest_append_singleton, foldStep_eq]

/-- Settles O51: F of no bytes is the seed. -/
theorem hashOfEmptyInputIsTheSeed : Obligations.HashOfEmptyInputIsTheSeed := by
  intro s v ws c hc hv
  rw [hostHash_of_supported s [] hc hv, fnvDigest_nil]

/-- What hash answers for a lookup `CONST(ws)`, a variant and the bytes (R175). -/
def hashAnswer (lookup : Option Consts) (v : Nibble) (bytes : List Byte) : HashResult :=
  match lookup with
  | none => .error ErrCode.unsupportedWidth.code
  | some c => if v.toNat ≤ 2 then .digest (fnvDigest c v bytes) else .error ErrCode.unsupportedVariant.code

/-- Of the state hash reads the ROM alone, and of the ROM the lookup alone. -/
theorem hostHash_eq_hashAnswer (s : State) (v ws : Nibble) (bytes : List Byte) :
    hostHash s v ws bytes = some (hashAnswer (s.rom.const ws) v bytes) := by
  cases hc : s.rom.const ws with
  | none => exact hostHash_of_unsupportedWidth s v bytes hc
  | some c =>
    by_cases hv : v.toNat ≤ 2
    · simpa only [hashAnswer, if_pos hv] using hostHash_of_supported s bytes hc hv
    · simpa only [hashAnswer, if_neg hv] using hostHash_of_unsupportedVariant s bytes hc (Nat.lt_of_not_le hv)

/-- Settles O53: the answer is fixed by the lookup in the ROM, the variant and the bytes. -/
theorem hashIsDeterministic : Obligations.HashIsDeterministic := by
  intro s u v ws bytes hrom
  rw [hostHash_eq_hashAnswer, hostHash_eq_hashAnswer, hrom]

/-- An answer that is a digest is F over the constants the lookup gave. -/
theorem hashAnswer_eq_digest {lookup : Option Consts} {v : Nibble} {bytes : List Byte} {d : Nat}
    (h : hashAnswer lookup v bytes = .digest d) : ∃ c, lookup = some c ∧ d = fnvDigest c v bytes := by
  cases lookup with
  | none => cases h
  | some c =>
    simp only [hashAnswer] at h
    split at h
    · cases h
      exact ⟨c, rfl, rfl⟩
    · cases h

/-- Settles O52: a digest is F over the width's constants, and F is below 2^W. -/
theorem digestIsBelowWidth : Obligations.DigestIsBelowWidth := by
  intro s v ws bytes d h
  rw [hostHash_eq_hashAnswer, Option.some_inj] at h
  obtain ⟨c, hc, rfl⟩ := hashAnswer_eq_digest h
  exact ⟨c, hc, fnvDigest_lt hc v bytes⟩

/-- FNV-0 of the bytes 0x01, 0x00: 0 · p xor 1 is 1, and 1 · p xor 0 is p (R111). -/
theorem fnvDigest_one_zero {c : Consts} (hW : 8 ≤ c.bits) (hp : c.prime < 2 ^ c.bits) :
    fnvDigest c 0 [0x01, 0x00] = c.prime := by
  have hone : step1 c 0 0x01 = 1 := by rw [step1, mulW_zero_left, xorByte_eq hW]; rfl
  have hprime : step1 c 1 0x00 = c.prime := by rw [step1, mulW_one_left hp, xorByte_zero]
  change step1 c (step1 c 0 0x01) 0x00 = c.prime
  rw [hone, hprime]

/-- Settles O54: F of no bytes by FNV-1 is the basis, and F of 0x01, 0x00 by FNV-0 the prime. -/
theorem hostObservesRomThroughCommands : Obligations.HostObservesRomThroughCommands := by
  intro s ws c hc
  obtain ⟨-, -, -, -, hp, -⟩ := const_spec hc
  refine ⟨hashOfEmptyInputIsTheSeed s 1 ws c hc (by decide), ?_⟩
  rw [hostHash_of_supported s _ hc (by decide), fnvDigest_one_zero (const_bits_ge_byte hc) hp]

-- A hash run by the machine's own step

/-- `s` with more words returned to the host. -/
def State.replying (s : State) (rs : List (Option Word)) : State := { s with replies := s.replies ++ rs }

theorem addReply_replying (r : Option Word) (s : State) (rs : List (Option Word)) :
    addReply r (s.replying rs) = s.replying (rs ++ [r]) := by
  simp [addReply, State.replying]

/-- Reads of DIGEST words return them in order and change nothing else (R55, R171). -/
theorem runAccesses_digestReads {n : Nat} (hn : n ≤ 32) (s : State) :
    runAccesses (digestReads n) s = .next (s.replying ((List.range n).map (digestWord s))) := by
  induction n with
  | zero => simp [digestReads, runAccesses, State.replying]
  | succ n ih =>
    have hread := accept_readDigest hn (s.replying ((List.range n).map (digestWord s)))
    have hword : digestWord (s.replying ((List.range n).map (digestWord s))) n = digestWord s n := rfl
    rw [hword, addReply_replying] at hread
    rw [digestReads, List.range_succ, List.map_append, ← digestReads,
      runAccesses_append_of_next _ (ih (Nat.le_of_succ_le hn)), List.map_append]
    exact runAccesses_cons_of_next [] hread

theorem accept_readStatus (s : State) : accept Access.readStatus s = .next (addReply (some (status s)) s) := rfl

/-- The reads of a hash return STATUS and the words of ACC. -/
theorem runAccesses_hashReads {s : State} {c : Consts} {a : Nat} (hs : s.state = .done)
    (hc : s.rom.const s.wsel = some c) (ha : s.acc = some a) :
    runAccesses (Access.readStatus :: digestReads (c.bits / 32)) s =
      .next (s.replying (some (status s) :: ((List.range (c.bits / 32)).map (wordAt a)).map some)) := by
  have hwords : (List.range (c.bits / 32)).map (digestWord (addReply (some (status s)) s)) =
      ((List.range (c.bits / 32)).map (wordAt a)).map some := by
    rw [List.map_map]
    exact List.map_congr_left fun k hk => digestWord_of_done (s := addReply _ s) hs hc ha (List.mem_range.mp hk)
  rw [runAccesses_cons_of_next _ (accept_readStatus s), runAccesses_digestReads (const_words_le hc), hwords]
  simp [addReply, State.replying]

theorem length_hashAccesses (v ws : Nibble) (bytes : List Byte) (n : Nat) :
    (hashAccesses v ws bytes n).length = bytes.length + 3 + n := by
  simp only [hashAccesses, hashCommands, digestReads, List.length_append, List.length_map, List.length_cons,
    List.length_nil, List.length_range]
  omega

/-- Settles O50: the steps are the accesses of the hash one after the other, with the others held behind them. -/
theorem hashRunsThroughSteps : Obligations.HashRunsThroughSteps := by
  intro s v ws bytes c rest hreset hc hv hheld
  obtain ⟨t, hcommands, ht, hct, ha⟩ := runAccesses_hashCommands (s := s.holding rest) bytes hc hv
  have hsteps := run_core_holding_append (hashAccesses v ws bytes (c.bits / 32)) rest s hreset
  rw [← hheld, length_hashAccesses, hashAccesses, runAccesses_append_of_next _ hcommands,
    runAccesses_hashReads ht hct ha] at hsteps
  rw [hashCommands_accesses] at hcommands
  obtain ⟨-, -, hoffered, hreplies⟩ := runAccesses_commandAccesses_port_frame hcommands
  refine ⟨_, (List.range (c.bits / 32)).map (wordAt (fnvDigest c v bytes)), hsteps, ht, ha, hoffered,
    congrArg (· ++ _) hreplies, ?_, digestOfWords_of_lt hc (fnvDigest_lt hc v bytes)⟩
  rw [List.length_map, List.length_range]

end Sys2Proof.Machine
end

section
/-! PROOFS. The assembler (30_encoding.md R81, R82): a line assembles exactly when it is well formed, the pseudo-instructions
are the commands they stand for, and the lexer outside quotes. -/

namespace Sys2Proof

-- A line assembles when it is well formed

/-- An operand with a range has a value exactly in its range. -/
theorem isSome_of_range {α : Type} (p : Prop) [Decidable p] (x : α) : (if p then some x else none).isSome = decide p := by
  by_cases hp : p <;> simp [hp]

theorem VariantArg.isSome_code (v : VariantArg) : v.code.isSome = v.wellFormed := by
  cases v with
  | raw n => exact isSome_of_range (n ≤ 15) _
  | _ => rfl

theorem WidthArg.isSome_code (w : WidthArg) : w.code.isSome = w.wellFormed := by
  cases w with
  | named w => rfl
  | raw n => exact isSome_of_range (n ≤ 15) _

theorem ByteArg.isSome_value (b : ByteArg) : b.value.isSome = b.wellFormed := by
  cases b with
  | number n => exact isSome_of_range (n ≤ 255) _
  | quoted c => rw [value, isSome_of_range, Bool.decide_and, wellFormed]

/-- Two operands together have values when each has. -/
theorem isSome_bind_bind {α β γ : Type} (x : Option α) (y : Option β) (f : α → β → γ) :
    (x.bind fun a => y.bind fun b => some (f a b)).isSome = (x.isSome && y.isSome) := by
  cases x <;> cases y <;> rfl

theorem isSome_byteValues (bs : List ByteArg) : (byteValues bs).isSome = bs.all ByteArg.wellFormed := by
  induction bs with
  | nil => rfl
  | cons b bs ih =>
    rw [List.all_cons, ← b.isSome_value, ← ih]
    exact isSome_bind_bind b.value (byteValues bs) List.cons

theorem AsmLine.words_foldb {bs : List ByteArg} (h : bs ≠ []) :
    (AsmLine.foldb bs).words = (byteValues bs).map fun xs => (foldInstrs xs).map encode := by
  cases bs with
  | nil => exact absurd rfl h
  | cons b bs => rfl

/-- A line writes words exactly when it is well formed (R81). -/
theorem AsmLine.isSome_words (l : AsmLine) : l.words.isSome = l.wellFormed := by
  cases l with
  | init v w =>
    rw [wellFormed, ← v.isSome_code, ← w.isSome_code]
    exact isSome_bind_bind v.code w.code fun vc wc => [encode (.init vc wc)]
  | fold b =>
    rw [wellFormed, ← b.isSome_value, words]
    cases b.value <;> rfl
  | rawWord n => exact isSome_of_range (n < 2 ^ 32) _
  | foldb bs =>
    cases bs with
    | nil => rfl
    | cons b bs => rw [words_foldb (List.cons_ne_nil b bs), Option.isSome_map, isSome_byteValues]; rfl
  | hash v w text =>
    rw [wellFormed, ← v.isSome_code, ← w.isSome_code]
    exact isSome_bind_bind v.code w.code fun vc wc =>
      (Instr.init vc wc :: foldInstrs (utf8 text) ++ [Instr.finish]).map encode
  | _ => rfl

theorem isSome_assembleLines (ls : List AsmLine) : (assembleLines ls).isSome = ls.all AsmLine.wellFormed := by
  induction ls with
  | nil => rfl
  | cons l ls ih =>
    rw [List.all_cons, ← l.isSome_words, ← ih]
    exact isSome_bind_bind l.words (assembleLines ls) List.append

/-- What a line of commands writes are encodings of instructions. -/
theorem AsmLine.words_eq_map_encode {l : AsmLine} {ws : List Word} (h : l.words = some ws) (hraw : ∀ n, l ≠ .rawWord n) :
    ∃ is : List Instr, ws = is.map encode := by
  cases l with
  | blank =>
    cases h
    exact ⟨[], rfl⟩
  | nop =>
    cases h
    exact ⟨[.nop], rfl⟩
  | init v w =>
    obtain ⟨vc, -, h⟩ := Option.bind_eq_some_iff.mp h
    obtain ⟨wc, -, h⟩ := Option.bind_eq_some_iff.mp h
    cases h
    exact ⟨[.init vc wc], rfl⟩
  | fold b =>
    obtain ⟨x, -, h⟩ := Option.bind_eq_some_iff.mp h
    cases h
    exact ⟨[.fold x], rfl⟩
  | finish =>
    cases h
    exact ⟨[.finish], rfl⟩
  | clear =>
    cases h
    exact ⟨[.clear], rfl⟩
  | rawWord n => exact absurd rfl (hraw n)
  | foldb bs =>
    cases bs with
    | nil => cases h
    | cons b bs =>
      obtain ⟨xs, -, rfl⟩ := Option.map_eq_some_iff.mp h
      exact ⟨foldInstrs xs, rfl⟩
  | folds text =>
    cases h
    exact ⟨foldInstrs (utf8 text), rfl⟩
  | hash v w text =>
    obtain ⟨vc, -, h⟩ := Option.bind_eq_some_iff.mp h
    obtain ⟨wc, -, h⟩ := Option.bind_eq_some_iff.mp h
    cases h
    exact ⟨.init vc wc :: foldInstrs (utf8 text) ++ [.finish], rfl⟩

/-- Settles O58: a line and a program write words when they are well formed, and an encoding decodes. -/
theorem assemblyErrorIffIllFormed : Obligations.AssemblyErrorIffIllFormed := by
  refine ⟨fun l => ?_, fun ls => ?_, fun l ws h hraw w hw => ?_⟩
  · rw [← l.isSome_words, Option.isSome_eq_false_iff, Option.isNone_iff_eq_none]
  · rw [← Option.isNone_iff_eq_none, ← Option.isSome_eq_false_iff, isSome_assembleLines, List.all_eq_false]
    simp only [Bool.not_eq_true]
  · obtain ⟨is, rfl⟩ := AsmLine.words_eq_map_encode h hraw
    obtain ⟨i, -, rfl⟩ := List.mem_map.mp hw
    exact ⟨i, decode_encode i⟩

-- The pseudo-instructions

theorem assembleLines_cons (l : AsmLine) (ls : List AsmLine) :
    assembleLines (l :: ls) = l.words.bind fun ws => (assembleLines ls).bind fun rest => some (ws ++ rest) := rfl

theorem assembleLines_singleton (l : AsmLine) : assembleLines [l] = l.words := by
  cases hl : l.words <;> simp [assembleLines, hl]

/-- Lines of FOLD write what one list of FOLD instructions encodes to, when every byte is allowed. -/
theorem assembleLines_map_fold (bs : List ByteArg) :
    assembleLines (bs.map .fold) = (byteValues bs).map fun xs => (foldInstrs xs).map encode := by
  induction bs with
  | nil => rfl
  | cons b bs ih =>
    have hbytes : byteValues (b :: bs) = b.value.bind fun x => (byteValues bs).bind fun xs => some (x :: xs) := rfl
    have hline : (AsmLine.fold b).words = b.value.bind fun x => some [encode (.fold x)] := rfl
    rw [List.map_cons, assembleLines_cons, ih, hbytes, hline]
    cases b.value with
    | none => rfl
    | some x => cases byteValues bs <;> rfl

/-- A byte written as its number is that byte. -/
theorem byteValues_map_number (xs : List Byte) : byteValues (xs.map fun b => .number b.toNat) = some xs := by
  induction xs with
  | nil => rfl
  | cons x xs ih =>
    have hx : (ByteArg.number x.toNat).value = some x := by
      have hle : x.toNat ≤ 255 := Nat.le_of_lt_succ x.isLt
      simp [ByteArg.value, hle]
    simp [byteValues, hx, ih]

/-- Settles O59: both sides write the encodings of the same instructions, or have the same operand out of range. -/
theorem pseudoInstructionsExpand : Obligations.PseudoInstructionsExpand := by
  refine ⟨fun bs hbs => ?_, fun text => ?_, fun v w text => ?_⟩
  · rw [assembleLines_singleton, AsmLine.words_foldb hbs, assembleLines_map_fold]
  · have hfolds := assembleLines_map_fold ((utf8 text).map fun b => .number b.toNat)
    rw [byteValues_map_number, List.map_map] at hfolds
    rw [assembleLines_singleton]
    exact hfolds.symm
  · rw [assembleLines_singleton, assembleLines_cons, assembleLines_cons, assembleLines_singleton]
    simp only [AsmLine.words]
    cases v.code with
    | none => rfl
    | some vc => cases w.code <;> simp

-- The lexer outside quotes

/-- A character that is neither the double quote (0x22) nor the apostrophe. -/
def IsUnquoted (c : Char) : Prop := c ≠ '\x22' ∧ c ≠ '\''

/-- A character that is no quote ends the line, ends the word, or is one more letter of it, in upper case (R81). -/
theorem lexLine_plain_cons {c : Char} (hc : IsUnquoted c) (rev cs : List Char) :
    lexLine (.plain rev) (c :: cs) =
      if c = ';' then some (flushWord rev [])
      else if c = ' ' ∨ c = '\t' ∨ c = '\r' then (lexLine (.plain []) cs).map (flushWord rev)
      else if c = ',' then (lexLine (.plain []) cs).map fun ts => flushWord rev (.comma :: ts)
      else lexLine (.plain (c.toUpper :: rev)) cs := by
  rw [lexLine, if_neg hc.1, if_neg hc.2]

/-- After characters that are no quotes, a semicolon ends the line whatever follows it. -/
theorem lexLine_append_comment {cs : List Char} (rest rev : List Char) (h : ∀ c ∈ cs, IsUnquoted c) :
    lexLine (.plain rev) (cs ++ ';' :: rest) = lexLine (.plain rev) cs := by
  induction cs generalizing rev with
  | nil => rw [List.nil_append, lexLine_plain_cons ⟨by decide, by decide⟩, if_pos rfl, lexLine]
  | cons c cs ih =>
    obtain ⟨hc, hcs⟩ := List.forall_mem_cons.mp h
    simp only [List.cons_append, lexLine_plain_cons hc, ih _ hcs]

/-- Upper case moves letters only, so no other character appears or disappears. -/
theorem toUpper_eq_iff (c : Char) {d : Char} (hd : d.isAlpha = false) : c.toUpper = d ↔ c = d := by
  have hkeep {e : Char} (he : e.isAlpha = false) : e.toUpper = e := by
    refine Char.toUpper_eq_of_not_isLower (Bool.eq_false_iff.mp ?_)
    rw [Char.isAlpha, Bool.or_eq_false_iff] at he
    exact he.2
  constructor
  · rintro rfl
    rw [Char.isAlpha_toUpper_eq_isAlpha] at hd
    exact (hkeep hd).symm
  · rintro rfl
    exact hkeep hd

/-- Outside quotes the lexer reads a line in upper case as the line. -/
theorem lexLine_map_toUpper {cs : List Char} (rev : List Char) (h : ∀ c ∈ cs, IsUnquoted c) :
    lexLine (.plain rev) (cs.map Char.toUpper) = lexLine (.plain rev) cs := by
  induction cs generalizing rev with
  | nil => rfl
  | cons c cs ih =>
    obtain ⟨hc, hcs⟩ := List.forall_mem_cons.mp h
    have hupper : IsUnquoted c.toUpper := by
      rwa [IsUnquoted, Ne, Ne, toUpper_eq_iff c (by decide), toUpper_eq_iff c (by decide)]
    rw [List.map_cons, lexLine_plain_cons hupper, lexLine_plain_cons hc]
    simp only [toUpper_eq_iff c (d := ';') (by decide), toUpper_eq_iff c (d := ' ') (by decide),
      toUpper_eq_iff c (d := '\t') (by decide), toUpper_eq_iff c (d := '\r') (by decide),
      toUpper_eq_iff c (d := ',') (by decide), Char.toUpper_toUpper_eq_toUpper, ih _ hcs]

/-- Settles O60: the lexer gives the same tokens, and the rest of a line's reading sees the tokens alone. -/
theorem commentsAndCaseAreIgnored : Obligations.CommentsAndCaseAreIgnored := by
  refine ⟨fun cs rest h => ?_, fun cs h => ?_⟩
  · rw [parseLine, parseLine, lexLine_append_comment rest [] h]
  · rw [parseLine, parseLine, lexLine_map_toUpper [] h]

end Sys2Proof
end
